-- ==== Sys2Proof/Word.lean ====
section
/-! DEFINITION. The word types of the block: a byte of the MemoryBus and a colour index. -/

namespace Sys2Proof

/-- One byte of the MemoryBus, the addressable unit (20_memory.md R45). -/
abbrev Byte := BitVec 8

/-- A colour index 0..7: what `ink`, `paper` and every pixel hold (10_state.md R33, R36). -/
abbrev Colour := BitVec 3

end Sys2Proof
end

