-- ==== Sys2Proof/Config.lean ====
section
/-! DEFINITION. The fixed constants of the block (00_scope.md R7), the defaults of its parameters
(R8), and the values the spec leaves open, as constants with no body. -/

namespace Sys2Proof.Config

/-- `H_TOTAL`: cycles per scanline (00_scope.md R7). -/
abbrev hTotal : Nat := 64
/-- `H_VIS_FIRST`: first cycle of the visible horizontal window (R7). -/
abbrev hVisFirst : Nat := 12
/-- `H_VIS_LAST`: last cycle of the visible horizontal window (R7). -/
abbrev hVisLast : Nat := 51
/-- `V_TOP_BLANK`: blank lines before the window (R7). -/
abbrev vTopBlank : Nat := 9
/-- `V_VIS_LINES`: visible lines (R7). -/
abbrev vVisLines : Nat := 224
/-- `HIRES_LINES`: lines the hires bitmap covers (R7). -/
abbrev hiresLines : Nat := 200
/-- `LINES_PAL`: `totalLines` when `palFreq` is true (R7). -/
abbrev linesPal : Nat := 312
/-- `LINES_60HZ`: `totalLines` when `palFreq` is false (R7). -/
abbrev lines60Hz : Nat := 264
/-- `TEXT_BASE`: base of the text-mode screen bytes (R7). -/
abbrev textBase : Nat := 0xBB80
/-- `HIRES_BASE`: base of the hires-mode screen bytes (R7). -/
abbrev hiresBase : Nat := 0xA000
/-- `ROW_BYTES`: bytes per screen row (R7). -/
abbrev rowBytes : Nat := 40
/-- `CHARSET_BASE_TEXT` (R7; which value goes with which mode: 90_conflicts.md C11). -/
abbrev charsetBaseText : Nat := 0xB400
/-- `CHARSET_BASE_HIRES` (R7; 90_conflicts.md C11). -/
abbrev charsetBaseHires : Nat := 0x9800
/-- `CHARSET_STRIDE`: bytes between the standard and the alternate glyph table (R7). -/
abbrev charsetStride : Nat := 1024
/-- `GLYPH_BYTES`: bytes per glyph (R7). -/
abbrev glyphBytes : Nat := 8
/-- `DOTS`: dots emitted per cell (R7). -/
abbrev dots : Nat := 6
/-- `FRAME_PIXELS`: pixels written per frame (R7). -/
abbrev framePixels : Nat := 53760
/-- The last address of the MemoryBus (20_memory.md R45). -/
abbrev lastAddress : Nat := 65535

/-- The index of white, the per-line default ink (10_state.md R40). PRESUMED by the spec itself
(decision D6, general knowledge): log 4, unsafe. -/
abbrev white : Colour := 7#3
/-- The index of black, the per-line default paper (10_state.md R40). PRESUMED by the spec itself
(decision D6, general knowledge): log 4, unsafe. -/
abbrev black : Colour := 0#3

/-- Default `SCREEN_WIDTH` (00_scope.md R8). -/
abbrev defaultWidth : Nat := 240
/-- Default `SCREEN_HEIGHT` (R8). -/
abbrev defaultHeight : Nat := 224
/-- Default `FRAMECOUNT_BITS` (R8). -/
abbrev defaultFrameCountBits : Nat := 32

/-- `PALETTE`: the total function from colour index to the platform's pixel value, which R8 leaves
open; a pixel value is written as a natural number (log 7, safe). Nothing can evaluate it. -/
opaque palette : Colour → Nat

/-- What pixel `offset` of buffer `buffer` of block number `block` holds before any store: the spec
says any value (10_state.md R36, U1, U2). A free value: log 5, safe. -/
opaque unspecifiedPixel (block buffer offset : Nat) : Colour

/-- What the `n`-th consumer read outside a reference's validity window returns: the spec says any
value (44_frame_handoff.md R131, U3). A free value: log 6, safe. -/
opaque tornPixel (n : Nat) : Colour

end Sys2Proof.Config
end

