-- ==== Sys2Proof/Machine/State.lean ====
section
/-! DEFINITION. The state of the block, of the MemoryBus it reads and of the agents that drive it
(10_state.md R15 to R44), the reasons a step can stop, and the state after reset. -/

namespace Sys2Proof.Machine

/-- Which of the two frame buffers (10_state.md R36, R37): index 0 or index 1. -/
inductive BufIndex where
  | zero
  | one
  deriving DecidableEq, Repr

/-- The two reads of a STEP (20_memory.md R48). -/
inductive FetchKind where
  /-- The stream fetch (41_cell_fetch_data.md R99). -/
  | stream
  /-- The glyph fetch (R100, R102). -/
  | glyph
  deriving DecidableEq, Repr

/-- One read of the MemoryBus by the block: which fetch made it and the address. -/
structure BusRead where
  fetch : FetchKind
  address : Int
  deriving DecidableEq, Repr

/-- The contents of the MemoryBus as (address, byte) pairs, addresses strictly rising, no entry
equal to what an unlisted address reads as (20_memory.md R45; log 2). -/
abbrev Memory := List Host.Cell

/-- The pixels stored in one frame buffer as (offset, colour) pairs, offsets strictly falling (the
producer stores at rising offsets, so the newest store is at the head). An offset that is not
listed has never been stored to (10_state.md R36). -/
abbrev Pixels := List (Nat × Colour)

/-- The timing-profile operand of RESET (70_reset_and_hazards.md R159; 60_exceptions.md R143). -/
inductive ProfileArg where
  /-- No profile given: PAL312 (R159). -/
  | omitted
  | pal312
  | hz60_264
  /-- A profile that is neither of the two; `code` is the value RESET was given (R141). -/
  | other (code : Nat)
  deriving DecidableEq, Repr

/-- An operation of one of the three agents (00_scope.md R12). -/
inductive AgentOp where
  /-- The host driver's STEP: one chip cycle (40_raster_timing.md R81). -/
  | step
  /-- The host driver's RESET (70_reset_and_hazards.md R159). -/
  | reset (profile : ProfileArg) (width height : Int)
  /-- The consumer's POLL (44_frame_handoff.md R130). -/
  | poll
  /-- DUMP, by the host driver or a debugger (44_frame_handoff.md R132). -/
  | dump
  /-- The processor's write of one byte between STEPs (20_memory.md R49). -/
  | busWrite (address : BitVec 16) (value : Byte)
  /-- The consumer's read of one pixel through the reference that the `nth` successful POLL
  returned, counting from 0 (10_state.md R36, 44_frame_handoff.md R131). -/
  | readPixel (nth offset : Nat)
  deriving DecidableEq, Repr

/-- What a successful POLL returns: a reference to one buffer (44_frame_handoff.md R130), stamped by
the model with the block and the number of toggles at the POLL, which decide its validity window
(R131; log 13). -/
structure FrameRef where
  block : Nat
  buffer : BufIndex
  toggle : Nat
  deriving DecidableEq, Repr

/-- The triple of a DUMP (44_frame_handoff.md R132). -/
structure Dump where
  frameCount : Nat
  horizontalCounter : Nat
  verticalCounter : Nat
  deriving DecidableEq, Repr

/-- What a consumer can still reach of a block's frame sink: its two buffers, their size in pixels,
and what decides the validity window of a reference (44_frame_handoff.md R131). -/
structure SinkView where
  block : Nat
  buf0 : Pixels
  buf1 : Pixels
  size : Nat
  toggles : Nat
  pixelCounter : Nat
  deriving DecidableEq, Repr

/-- The whole state: the block (10_state.md R15), the MemoryBus and the agents' pending operations
(00_scope.md R12), the results the operations returned, and the model's own bookkeeping. -/
structure State where
  /-- Cycles into the current scanline (R16). -/
  horizontalCounter : Nat
  /-- Scanlines into the current frame (R17). -/
  verticalCounter : Nat
  /-- `verticalCounter` minus the blank-line count, signed (R18). -/
  windowLine : Int
  /-- Base address of the current scanline's byte stream (R19). -/
  lineAddr : Int
  /-- Next store offset in the active buffer (R21). -/
  pixelCounter : Nat
  /-- True for 312-line timing (R22). -/
  palFreq : Bool
  /-- 312 or 264 (R23). -/
  totalLines : Nat
  /-- Current graphics mode (R24). -/
  hiresMode : Bool
  /-- Whether cells take their dots from the glyph table (R25). -/
  textMode : Bool
  /-- 0 standard, 1 alternate glyph table (R26). -/
  charset : BitVec 1
  /-- Base of the pair of glyph tables (R27). -/
  charsetBase : Nat
  /-- Address of the selected glyph table (R28). -/
  charsetAddr : Nat
  /-- Row within the current glyph (R29). -/
  charline : Nat
  /-- Per-line attribute (R30). -/
  doubleHeight : Bool
  /-- Per-line attribute (R31). -/
  blink : Bool
  /-- 63, or 0 in the blink-off phase (R32). -/
  blinkMask : BitVec 6
  /-- Current foreground colour index (R33). -/
  ink : Colour
  /-- Current background colour index (R34). -/
  paper : Colour
  /-- Completed frames, modulo 2 to the power `frameCountBits` (R35). -/
  frameCount : Nat
  /-- Frame buffer 0 (R36). -/
  buf0 : Pixels
  /-- Frame buffer 1 (R36). -/
  buf1 : Pixels
  /-- The buffer being written (R37). -/
  activeIndex : BufIndex
  /-- Whether the other buffer is ready (R38). -/
  ready : Bool
  /-- Whether a fault has ended the block (R39). -/
  faulted : Bool
  /-- `SCREEN_WIDTH` (00_scope.md R8). -/
  screenWidth : Nat
  /-- `SCREEN_HEIGHT` (00_scope.md R8). -/
  screenHeight : Nat
  /-- `FRAMECOUNT_BITS` (00_scope.md R8). -/
  frameCountBits : Nat
  /-- The MemoryBus as the processor has left it (20_memory.md R45). -/
  mem : Memory
  /-- The agents' operations not yet performed, in order (00_scope.md R12; log 1). -/
  schedule : List AgentOp
  /-- What the last STEP returned; `none` before any, or if it returned nothing (R81, R142). -/
  stepResult : Option Bool
  /-- What the last POLL returned; `none` before any, or if it returned nothing (R130, R142). -/
  pollResult : Option (Option FrameRef)
  /-- What the last DUMP returned; `none` before any, or if it returned nothing (R132, R142). -/
  dumpResult : Option Dump
  /-- The colour index the consumer's last read gave (10_state.md R36). -/
  readResult : Option Colour
  /-- The MemoryBus reads of the last STEP, in order (20_memory.md R48; log 15). -/
  busReads : List BusRead
  /-- Which construction this block is, counting from 0 (70_reset_and_hazards.md R163; log 14). -/
  blockId : Nat
  /-- Toggles this block has made (44_frame_handoff.md R131; log 13). -/
  toggles : Nat
  /-- The references successful POLLs have returned, oldest first (R131; log 13). -/
  handed : List FrameRef
  /-- The sinks of blocks that a later RESET replaced (R163; log 14). -/
  retired : List SinkView
  /-- Consumer reads outside a validity window so far: the index of the next free value (log 6). -/
  freeReads : Nat
  deriving DecidableEq, Repr

/-- Why the machine stops with a fault: the table of causes of 60_exceptions.md R143. -/
inductive Fault where
  /-- `ADDR_RANGE`, code 1: raised by the stream or the glyph fetch of a STEP whose computed address
  is outside 0..65535; it records the fetch and the address (R140). Safe: no run from reset
  reaches it (R145). -/
  | addrRange (fetch : FetchKind) (address : Int)
  /-- `CONFIG_GEOMETRY`, code 2: raised by RESET for a width or height of 0 or less, or fewer than
  53760 pixels; it records the two values (R141, R161). Safe. -/
  | configGeometry (width height : Int)
  /-- `CONFIG_PROFILE`, code 3: raised by RESET for a timing profile that is neither of the two; it
  records the value (R141). Safe. -/
  | configProfile (profile : Nat)
  deriving DecidableEq, Repr

/-- Why the model gives an operation no meaning. -/
inductive Refusal where
  /-- An instruction whose arm of `exec` has no meaning yet; no arm answers it. Safe. -/
  | notModelled (mnemonic : String)
  /-- A pixel store at an offset outside the buffer, for which the spec has no rule
  (70_reset_and_hazards.md R161); raised by PixWrite. Safe: no run from reset reaches it. -/
  | pixelBeyondBuffer (offset : Nat)
  /-- A consumer read through a reference no POLL returned, which the interface does not offer
  (20_memory.md R56); raised by the consumer's read. Safe. -/
  | noSuchReference (nth : Nat)
  /-- A consumer read at an offset outside the buffer, which the interface does not offer
  (20_memory.md R56); raised by the consumer's read. Safe. -/
  | readBeyondBuffer (offset : Nat)
  deriving DecidableEq, Repr

/-- A block as a successful RESET leaves it, for each legal profile and geometry, beside an empty
environment: the table of 10_state.md R44. -/
def State.fresh (palFreq : Bool) (width height : Nat) : State where
  horizontalCounter := 0
  verticalCounter := 0
  windowLine := -9
  lineAddr := 0xBB30
  pixelCounter := 0
  palFreq := palFreq
  totalLines := if palFreq then Config.linesPal else Config.lines60Hz
  hiresMode := false
  textMode := true
  charset := 0#1
  charsetBase := Config.charsetBaseText
  charsetAddr := Config.charsetBaseText
  charline := 7
  doubleHeight := false
  blink := false
  blinkMask := 63#6
  ink := Config.white
  paper := Config.black
  frameCount := 0
  buf0 := []
  buf1 := []
  activeIndex := .zero
  ready := false
  faulted := false
  screenWidth := width
  screenHeight := height
  frameCountBits := Config.defaultFrameCountBits
  mem := []
  schedule := []
  stepResult := none
  pollResult := none
  dumpResult := none
  readResult := none
  busReads := []
  blockId := 0
  toggles := 0
  handed := []
  retired := []
  freeReads := 0

/-- The machine right after RESET with the default profile and geometry (10_state.md R44,
00_scope.md R8). -/
def State.reset : State := State.fresh true Config.defaultWidth Config.defaultHeight

end Sys2Proof.Machine
end

