-- ==== Sys2Proof/Machine/Flags.lean ====
section
/-! DEFINITION. The flags and derived registers: how each is computed from what it depends on
(10_state.md R23 to R32), and the region test of a cycle (40_raster_timing.md R84). -/

namespace Sys2Proof.Machine

/-- `totalLines`: 312 if `palFreq` else 264 (10_state.md R23). -/
def totalLinesOf (palFreq : Bool) : Nat := if palFreq then Config.linesPal else Config.lines60Hz

/-- `textMode = !hiresMode || windowLine >= 200` (10_state.md R25, 42_control_codes.md R111). -/
def textModeOf (hiresMode : Bool) (windowLine : Int) : Bool :=
  !hiresMode || decide ((Config.hiresLines : Int) ≤ windowLine)

/-- `charsetBase`: 0x9800 if `hiresMode` else 0xB400 (10_state.md R27). -/
def charsetBaseOf (hiresMode : Bool) : Nat :=
  if hiresMode then Config.charsetBaseHires else Config.charsetBaseText

/-- `charsetAddr = charsetBase + charset * 1024` (10_state.md R28). -/
def charsetAddrOf (charsetBase : Nat) (charset : BitVec 1) : Nat :=
  charsetBase + charset.toNat * Config.charsetStride

/-- Bit 4 of `frameCount`, the blink phase: `(frameCount & 16) != 0` (10_state.md R32). -/
def blinkPhase (frameCount : Nat) : Bool := frameCount &&& 16 != 0

/-- `blinkMask`: 0 in the blink-off phase of a blinking cell, else 63 (10_state.md R32). -/
def blinkMaskOf (blink : Bool) (frameCount : Nat) : BitVec 6 :=
  if blink && blinkPhase frameCount then 0#6 else 63#6

/-- The region test of a cycle: the cell is rendered exactly when both counters are in their visible
window on entry (40_raster_timing.md R84). -/
def inWindow (s : State) : Bool :=
  decide (Config.hVisFirst ≤ s.horizontalCounter ∧ s.horizontalCounter ≤ Config.hVisLast ∧
    0 ≤ s.windowLine ∧ s.windowLine ≤ 223)

/-- The other buffer's index: `1 - activeIndex` (44_frame_handoff.md R125). -/
def BufIndex.other : BufIndex → BufIndex
  | .zero => .one
  | .one => .zero

/-- The index as the number the spec writes, 0 or 1 (10_state.md R37). -/
def BufIndex.toNat : BufIndex → Nat
  | .zero => 0
  | .one => 1

end Sys2Proof.Machine
end

