-- ==== Sys2Proof/Syntax.lean ====
section
/-! DEFINITION. The stream codes: one constructor per row of spec/opcode_table.json
(30_encoding.md R66 to R73). In every constructor `r` is bit 7, reverse video (R77). -/

namespace Sys2Proof

/-- A stream code of `video_raster_engine`. -/
inductive Instr where
  /-- INK, `r0000ccc`: `c` is the new ink colour index (R69). -/
  | ink (r : Bool) (c : Colour)
  /-- ATTR, `r0001bda`: `b` blink, `d` double height, `a` alternate charset (R70). -/
  | attr (r b d a : Bool)
  /-- PAPER, `r0010ccc`: `c` is the new paper colour index (R71). -/
  | paper (r : Bool) (c : Colour)
  /-- MODE, `r0011hfx`: `h` new `hiresMode`, `f` new `palFreq`, `x` ignored (R72, R76). -/
  | mode (r h f x : Bool)
  /-- DATA.1, `r01vvvvv`: `code` is the field of bits 6:0, whose top two bits are 01 (R73, R66). -/
  | data1 (r : Bool) (code : BitVec 7)
  /-- DATA.2, `r10vvvvv`: `code` is the field of bits 6:0, whose top two bits are 10 (R73, R66). -/
  | data2 (r : Bool) (code : BitVec 7)
  /-- DATA.3, `r11vvvvv`: `code` is the field of bits 6:0, whose top two bits are 11 (R73, R66). -/
  | data3 (r : Bool) (code : BitVec 7)
  deriving DecidableEq, Repr

end Sys2Proof
end

