-- ==== Sys2Proof/WellFormed.lean ====
section
/-! DEFINITION. Well-formed instructions: a data code's `code` field carries the class bits of its
row (30_encoding.md R73); every other operand's type admits exactly its field's values. -/

namespace Sys2Proof

/-- The class field `K` of a data code, bits 6:5 of its byte (30_encoding.md R66). -/
def codeClass (code : BitVec 7) : BitVec 2 := code.extractLsb' 5 2

/-- The instruction's operands fit its row of the opcode table. -/
def Instr.wellFormed : Instr → Bool
  | .ink _ _ => true
  | .attr _ _ _ _ => true
  | .paper _ _ => true
  | .mode _ _ _ _ => true
  | .data1 _ code => codeClass code == 1#2
  | .data2 _ code => codeClass code == 2#2
  | .data3 _ code => codeClass code == 3#2

end Sys2Proof
end

