-- ==== Sys2Proof/Decode.lean ====
section
/-! DEFINITION. Decoding a stream byte and encoding a stream code (30_encoding.md R66 to R76), and
the opcode table's masks. -/

namespace Sys2Proof

/-- Field `R`, bit 7 (30_encoding.md R66). -/
def fieldR (b : Byte) : Bool := b.getLsbD 7

/-- Field `K`, bits 6:5: the class (R66, R67). -/
def fieldK (b : Byte) : BitVec 2 := b.extractLsb' 5 2

/-- Field `G`, bits 4:3: the control group (R66, R68). -/
def fieldG (b : Byte) : BitVec 2 := b.extractLsb' 3 2

/-- Field `V`, bits 2:0: the operand of a control code (R66, R74). -/
def fieldV (b : Byte) : BitVec 3 := b.extractLsb' 0 3

/-- Field `code`, bits 6:0 (R66, R74). -/
def fieldCode (b : Byte) : BitVec 7 := b.extractLsb' 0 7

/-- A control code by its group: four cases, no fifth and no default (R68 to R72). -/
def decodeControl (b : Byte) : Instr :=
  if fieldG b = 0#2 then .ink (fieldR b) (fieldV b)
  else if fieldG b = 1#2 then .attr (fieldR b) (b.getLsbD 2) (b.getLsbD 1) (b.getLsbD 0)
  else if fieldG b = 2#2 then .paper (fieldR b) (fieldV b)
  else .mode (fieldR b) (b.getLsbD 2) (b.getLsbD 1) (b.getLsbD 0)

/-- Every byte is a stream code (R75): class 00 is a control code, any other class a data code
(R67, R73). -/
def decodeByte (b : Byte) : Instr :=
  if fieldK b = 0#2 then decodeControl b
  else if fieldK b = 1#2 then .data1 (fieldR b) (fieldCode b)
  else if fieldK b = 2#2 then .data2 (fieldR b) (fieldCode b)
  else .data3 (fieldR b) (fieldCode b)

/-- Why a list of bytes holds no instruction. -/
inductive DecodeReject where
  /-- There is no byte to decode; no byte value itself is ever rejected (30_encoding.md R75). -/
  | noByte
  deriving DecidableEq, Repr

/-- The instruction at the head of a list of bytes, with the bytes after it: every code is one byte
(30_encoding.md R66). -/
def decode : List Byte → Except DecodeReject (Instr × List Byte)
  | [] => .error .noByte
  | b :: rest => .ok (decodeByte b, rest)

/-- The byte of a control code: bit 7, class 00, its group and its three operand bits (R66). -/
def controlByte (r : Bool) (group : BitVec 2) (v : BitVec 3) : Byte :=
  (BitVec.ofBool r ++ 0#2 ++ group ++ v : BitVec (1 + 2 + 2 + 3))

/-- The byte of a data code: bit 7 and the field `code` (R66, R73). -/
def dataByte (r : Bool) (code : BitVec 7) : Byte :=
  (BitVec.ofBool r ++ code : BitVec (1 + 7))

/-- Three flag bits as the operand field, the first the most significant (R70, R72). -/
def flagBits (b2 b1 b0 : Bool) : BitVec 3 :=
  (BitVec.ofBool b2 ++ BitVec.ofBool b1 ++ BitVec.ofBool b0 : BitVec (1 + 1 + 1))

/-- The stream byte of an instruction (30_encoding.md R69 to R73). -/
def encodeByte : Instr → Byte
  | .ink r c => controlByte r 0#2 c
  | .attr r b d a => controlByte r 1#2 (flagBits b d a)
  | .paper r c => controlByte r 2#2 c
  | .mode r h f x => controlByte r 3#2 (flagBits h f x)
  | .data1 r code => dataByte r code
  | .data2 r code => dataByte r code
  | .data3 r code => dataByte r code

/-- The bytes of an instruction: exactly one (30_encoding.md R66). -/
def encode (i : Instr) : List Byte := [encodeByte i]

/-- One row of the opcode table: a byte `b` is the row's when `b` masked with `mask` is `pattern`. -/
structure OpcodeRow where
  mnemonic : String
  mask : Byte
  pattern : Byte
  deriving DecidableEq, Repr

/-- The opcode table's seven rows with their masks and patterns (30_encoding.md section 8). -/
def opcodeRows : List OpcodeRow :=
  [⟨"INK", 0x78#8, 0x00#8⟩, ⟨"ATTR", 0x78#8, 0x08#8⟩, ⟨"PAPER", 0x78#8, 0x10#8⟩,
   ⟨"MODE", 0x78#8, 0x18#8⟩, ⟨"DATA.1", 0x60#8, 0x20#8⟩, ⟨"DATA.2", 0x60#8, 0x40#8⟩,
   ⟨"DATA.3", 0x60#8, 0x60#8⟩]

/-- The mnemonic of an instruction's row. -/
def Instr.mnemonic : Instr → String
  | .ink _ _ => "INK"
  | .attr _ _ _ _ => "ATTR"
  | .paper _ _ => "PAPER"
  | .mode _ _ _ _ => "MODE"
  | .data1 _ _ => "DATA.1"
  | .data2 _ _ => "DATA.2"
  | .data3 _ _ => "DATA.3"

/-- The byte whose bits 7..0 are the low `nbits` bits of `w`, the bits above them 0. -/
def tableByte (nbits w : Nat) : Byte := BitVec.ofNat 8 (w % 2 ^ nbits)

/-- The instruction the decoder reads from the table word `w` of `nbits` bits. -/
def decodeTableWord (nbits w : Nat) : Option Instr :=
  match decode [tableByte nbits w] with
  | .ok (i, _) => some i
  | .error _ => none

end Sys2Proof
end

