-- ==== Sys2Proof/Machine/Operands.lean ====
section
/-! DEFINITION. The operand forms: the fields of a stream byte as the cell uses them, and the
address computations (30_encoding.md R74, 41_cell_fetch_data.md R106). -/

namespace Sys2Proof.Machine

/-- Whether bit 7 of the stream byte selects reverse video (43_colour_output.md R116). -/
def reverseBit (screenCode : Byte) : Bool := screenCode &&& 0x80#8 != 0#8

/-- The glyph number of a stream byte, `screenCode & 0x7F` (41_cell_fetch_data.md R100). -/
def glyphNumber (screenCode : Byte) : Nat := (screenCode &&& 0x7F#8).toNat

/-- `windowLine & 7` on a signed line number (00_scope.md R10). -/
def lineAnd7 (w : Int) : Nat := (w % 8).toNat

/-- `(windowLine & 15) >> 1` on a signed line number (00_scope.md R10). -/
def lineAnd15Half (w : Int) : Nat := (w % 16).toNat / 2

/-- `LineAddr(t, w)`: the base address of the stream of line `w` (40_raster_timing.md R89). The
division is floor division, as R10 says; no value is reduced modulo 65536. -/
def lineAddrOf (text : Bool) (w : Int) : Int :=
  if text then (Config.textBase : Int) + w / 8 * Config.rowBytes
  else (Config.hiresBase : Int) + w * Config.rowBytes

/-- The stream fetch address, base plus column (41_cell_fetch_data.md R99). -/
def streamAddr (s : State) : Int := s.lineAddr + ((s.horizontalCounter : Int) - Config.hVisFirst)

/-- The glyph fetch address, base plus scaled index plus row (41_cell_fetch_data.md R100). -/
def glyphAddr (screenCode : Byte) (s : State) : Int :=
  ((s.charsetAddr + glyphNumber screenCode * Config.glyphBytes + s.charline : Nat) : Int)

/-- Dot `i` of a cell, 0 the leftmost: bit `5 - i` of `cellData` (43_colour_output.md R117). -/
def cellDot (cellData : Byte) (i : Nat) : Bool := cellData.getLsbD (5 - i)

/-- The effective foreground of a cell: reverse video exchanges the roles of ink and paper
(43_colour_output.md R116). -/
def foreground (screenCode : Byte) (ink paper : Colour) : Colour :=
  if reverseBit screenCode then paper else ink

/-- The effective background of a cell (43_colour_output.md R116). -/
def background (screenCode : Byte) (ink paper : Colour) : Colour :=
  if reverseBit screenCode then ink else paper

/-- The colour of dot `i` of a cell (43_colour_output.md R117). -/
def dotColour (screenCode cellData : Byte) (ink paper : Colour) (i : Nat) : Colour :=
  if cellDot cellData i then foreground screenCode ink paper else background screenCode ink paper

/-- The six dots of a cell, leftmost first (43_colour_output.md R117). -/
def cellColours (screenCode cellData : Byte) (ink paper : Colour) : List Colour :=
  [dotColour screenCode cellData ink paper 0, dotColour screenCode cellData ink paper 1,
   dotColour screenCode cellData ink paper 2, dotColour screenCode cellData ink paper 3,
   dotColour screenCode cellData ink paper 4, dotColour screenCode cellData ink paper 5]

end Sys2Proof.Machine
end

