-- ==== Sys2Proof/Machine/Ops.lean ====
section
/-! DEFINITION. The named operations over the MemoryBus, the frame buffers and the registers, and
raising a fault. -/

namespace Sys2Proof.Machine

/-- What an operation of the block answers. -/
abbrev Result := Host.Outcome State Fault Refusal

/-- Go on with `k` where `r` answered a next state; a fault or a refusal ends the operation. -/
def andThen (r : Result) (k : State → Result) : Result :=
  match r with
  | .next s => k s
  | .fault f => .fault f
  | .refused e => .refused e

/-! ### Faults -/

/-- `raise Fault(kind)` (00_scope.md R11): the step answers a fault outcome (60_exceptions.md R142). -/
def raiseFault (f : Fault) : Result := .fault f

/-- The numeric code of a fault (60_exceptions.md R143). -/
def Fault.code : Fault → Nat
  | .addrRange _ _ => 1
  | .configGeometry _ _ => 2
  | .configProfile _ => 3

/-- The block after an operation on `s` raised a fault. `ADDR_RANGE` leaves the state as the step
found it but for the faulted flag, and nothing clears that flag (60_exceptions.md R142, R144). A
failed RESET creates no block (R141, 70_reset_and_hazards.md R160). What becomes of a block that was
already running the spec does not say; DESIGN CHOICE: the run ends and no block is answered, neither
the old one nor a new one (log 23, safe). -/
def blockAfterFault (f : Fault) (s : State) : Option State :=
  match f with
  | .addrRange _ _ => some { s with faulted := true, stepResult := none }
  | .configGeometry _ _ => none
  | .configProfile _ => none

/-! ### The MemoryBus -/

/-- What an address that is not listed reads as. The spec leaves the contents open (U6); DESIGN
CHOICE 0x00, unsafe for statements about unlisted addresses (log 2). -/
def Memory.unlisted : Byte := 0#8

/-- The byte the MemoryBus holds at an address (20_memory.md R45). -/
def Memory.read : Memory → Nat → Byte
  | [], _ => Memory.unlisted
  | (a, b) :: rest, addr => if a = addr then b else Memory.read rest addr

/-- A cell in front of a list whose addresses are higher; a byte equal to `unlisted` is not listed. -/
def Memory.put (addr : Nat) (b : Byte) (m : Memory) : Memory :=
  if b = Memory.unlisted then m else (addr, b) :: m

/-- The processor's store of one byte; it keeps the canonical form. -/
def Memory.write : Memory → Nat → Byte → Memory
  | [], addr, b => Memory.put addr b []
  | (a, v) :: rest, addr, b =>
    if addr < a then Memory.put addr b ((a, v) :: rest)
    else if addr = a then Memory.put addr b rest
    else (a, v) :: Memory.write rest addr b

/-- The canonical form from address `lo` on: addresses rising and within 0..65535, no entry equal to
`unlisted`. -/
def Memory.wfFrom : Nat → Memory → Bool
  | _, [] => true
  | lo, (a, b) :: rest =>
    decide (lo ≤ a) && decide (a ≤ Config.lastAddress) && (b != Memory.unlisted)
      && Memory.wfFrom (a + 1) rest

/-- The memory is in its one canonical form. -/
def Memory.wf (m : Memory) : Bool := Memory.wfFrom 0 m

/-- `MemRead(addr, 1)` (20_memory.md R46): the byte at the address, or `Fault(ADDR_RANGE)`; an
address is never reduced modulo 65536. The read is noted in `busReads` (log 15). -/
def memRead (fetch : FetchKind) (addr : Int) (s : State) : Except Fault (Byte × State) :=
  if 0 ≤ addr ∧ addr ≤ Config.lastAddress then
    .ok (s.mem.read addr.toNat, { s with busReads := s.busReads ++ [⟨fetch, addr⟩] })
  else .error (.addrRange fetch addr)

/-! ### The frame buffers -/

/-- The colour last stored at an offset of a buffer, if any store was made there. -/
def Pixels.stored : Pixels → Nat → Option Colour
  | [], _ => none
  | (o, c) :: rest, off => if o = off then some c else Pixels.stored rest off

/-- A store into a buffer; it keeps the offsets strictly falling. -/
def Pixels.store : Pixels → Nat → Colour → Pixels
  | [], off, c => [(off, c)]
  | (o, v) :: rest, off, c =>
    if o < off then (off, c) :: (o, v) :: rest
    else if o = off then (off, c) :: rest
    else (o, v) :: Pixels.store rest off c

/-- The canonical form below offset `hi`: offsets strictly falling, the first below `hi`. -/
def Pixels.wfBelow : Nat → Pixels → Bool
  | _, [] => true
  | hi, (o, _) :: rest => decide (o < hi) && Pixels.wfBelow o rest

/-- Buffer `b` (10_state.md R36). -/
def State.buf (s : State) : BufIndex → Pixels
  | .zero => s.buf0
  | .one => s.buf1

/-- Replace the contents of buffer `b`. -/
def State.setBuf (s : State) (b : BufIndex) (p : Pixels) : State :=
  match b with
  | .zero => { s with buf0 := p }
  | .one => { s with buf1 := p }

/-- The number of pixels of a frame buffer, `SCREEN_WIDTH * SCREEN_HEIGHT` (10_state.md R36). -/
def State.bufferSize (s : State) : Nat := s.screenWidth * s.screenHeight

/-- The colour index pixel `off` of buffer `b` holds: the last store, or an unspecified value where
no store has been made (10_state.md R36, U1; log 5). -/
def State.pixel (s : State) (b : BufIndex) (off : Nat) : Colour :=
  (Pixels.stored (s.buf b) off).getD (Config.unspecifiedPixel s.blockId b.toNat off)

/-- `PixWrite(off, c)` (44_frame_handoff.md R124): a store into the active buffer. An offset outside
the buffer has no rule (70_reset_and_hazards.md R161) and is refused by name (log 12). -/
def pixWrite (off : Nat) (c : Colour) (s : State) : Result :=
  if off < s.bufferSize then
    .next (s.setBuf s.activeIndex (Pixels.store (s.buf s.activeIndex) off c))
  else .refused (.pixelBeyondBuffer off)

/-- Consecutive PixWrites from offset `off` on (44_frame_handoff.md R124, "ordered pixel writes"). -/
def pixWrites (off : Nat) : List Colour → State → Result
  | [], s => .next s
  | c :: rest, s => andThen (pixWrite off c s) (pixWrites (off + 1) rest)

/-! ### The cell -/

/-- Where `cellData` comes from: the glyph table in text mode, the stream byte itself otherwise
(41_cell_fetch_data.md R100, R101). -/
def cellByte (screenCode : Byte) (s : State) : Except Fault (Byte × State) :=
  if s.textMode then memRead .glyph (glyphAddr screenCode s) s else .ok (screenCode, s)

/-- `EmitCell` (43_colour_output.md R117): six stores at `pixelCounter` and the five offsets after
it, then `pixelCounter` advances by 6 (R122). -/
def emitCell (screenCode cellData : Byte) (s : State) : Result :=
  andThen (pixWrites s.pixelCounter (cellColours screenCode cellData s.ink s.paper) s)
    (fun t => .next { t with pixelCounter := t.pixelCounter + Config.dots })

/-- The cell of a control code after its stream fetch (41_cell_fetch_data.md R98, R102;
42_control_codes.md R107): the glyph read is made and its byte discarded, `cellData` is 0, and the
action is complete before the colours are resolved. -/
def renderControl (screenCode : Byte) (action : State → State) (s : State) : Result :=
  match cellByte screenCode s with
  | .error f => raiseFault f
  | .ok (_, t) => emitCell screenCode 0#8 (action t)

/-- The cell of a data code after its stream fetch (41_cell_fetch_data.md R98, R103):
`cellData & blinkMask`, and no register changes. -/
def renderData (screenCode : Byte) (s : State) : Result :=
  match cellByte screenCode s with
  | .error f => raiseFault f
  | .ok (cellData, t) => emitCell screenCode (cellData &&& t.blinkMask.setWidth 8) t

end Sys2Proof.Machine
end

