-- ==== Sys2Proof/Machine/Control.lean ====
section
/-! DEFINITION. The control codes INK, ATTR, PAPER and MODE (42_control_codes.md): what each writes,
and its cell. -/

namespace Sys2Proof.Machine

/-- The action of INK: `ink <- c` (42_control_codes.md R108). -/
def inkAction (c : Colour) (s : State) : State := { s with ink := c }

/-- The action of ATTR: six registers, every time (42_control_codes.md R109). -/
def attrAction (b d a : Bool) (s : State) : State :=
  { s with
    charset := BitVec.ofBool a
    charsetAddr := charsetAddrOf s.charsetBase (BitVec.ofBool a)
    doubleHeight := d
    charline := if d then lineAnd15Half s.windowLine else lineAnd7 s.windowLine
    blink := b
    blinkMask := blinkMaskOf b s.frameCount }

/-- The action of PAPER: `paper <- c` (42_control_codes.md R110). -/
def paperAction (c : Colour) (s : State) : State := { s with paper := c }

/-- The action of MODE: seven registers, every time; `charset` is kept (42_control_codes.md R111). -/
def modeAction (h f : Bool) (s : State) : State :=
  { s with
    palFreq := f
    totalLines := totalLinesOf f
    hiresMode := h
    charsetBase := charsetBaseOf h
    charsetAddr := charsetAddrOf (charsetBaseOf h) s.charset
    textMode := textModeOf h s.windowLine
    lineAddr := lineAddrOf (textModeOf h s.windowLine) s.windowLine }

/-- INK (42_control_codes.md R108). -/
def execInk (r : Bool) (c : Colour) (s : State) : Result :=
  renderControl (encodeByte (.ink r c)) (inkAction c) s

/-- ATTR (42_control_codes.md R109). -/
def execAttr (r b d a : Bool) (s : State) : Result :=
  renderControl (encodeByte (.attr r b d a)) (attrAction b d a) s

/-- PAPER (42_control_codes.md R110). -/
def execPaper (r : Bool) (c : Colour) (s : State) : Result :=
  renderControl (encodeByte (.paper r c)) (paperAction c) s

/-- MODE (42_control_codes.md R111); bit 0, `x`, changes nothing but the byte (30_encoding.md R76). -/
def execMode (r h f x : Bool) (s : State) : Result :=
  renderControl (encodeByte (.mode r h f x)) (modeAction h f) s

end Sys2Proof.Machine
end

