-- ==== Sys2Proof/Machine/Data.lean ====
section
/-! DEFINITION. The data codes DATA.1, DATA.2 and DATA.3 (41_cell_fetch_data.md R103): three rows of
the table with one semantics. -/

namespace Sys2Proof.Machine

/-- DATA.1 (41_cell_fetch_data.md R103). -/
def execData1 (r : Bool) (code : BitVec 7) (s : State) : Result :=
  renderData (encodeByte (.data1 r code)) s

/-- DATA.2 (41_cell_fetch_data.md R103). -/
def execData2 (r : Bool) (code : BitVec 7) (s : State) : Result :=
  renderData (encodeByte (.data2 r code)) s

/-- DATA.3 (41_cell_fetch_data.md R103). -/
def execData3 (r : Bool) (code : BitVec 7) (s : State) : Result :=
  renderData (encodeByte (.data3 r code)) s

end Sys2Proof.Machine
end

