-- ==== Sys2Proof/Machine/Dispatch.lean ====
section
/-! DEFINITION. What a stream code does once it has been fetched: one arm per constructor. -/

namespace Sys2Proof.Machine

def exec (i : Instr) (s : State) : Host.Outcome State Fault Refusal :=
  match i with
  | .ink r c => Sys2Proof.Machine.execInk r c s
  | .attr r b d a => Sys2Proof.Machine.execAttr r b d a s
  | .paper r c => Sys2Proof.Machine.execPaper r c s
  | .mode r h f x => Sys2Proof.Machine.execMode r h f x s
  | .data1 r code => Sys2Proof.Machine.execData1 r code s
  | .data2 r code => Sys2Proof.Machine.execData2 r code s
  | .data3 r code => Sys2Proof.Machine.execData3 r code s

end Sys2Proof.Machine
end

