-- ==== Sys2Proof/Machine/Raster.lean ====
section
/-! DEFINITION. The timing state machine after a cycle's optional cell: counter advance, line wrap,
per-line reset, frame wrap and toggle (40_raster_timing.md R85 to R93, 44_frame_handoff.md R125). -/

namespace Sys2Proof.Machine

/-- `LineReset()` (40_raster_timing.md R87, R88): the per-line attribute state to its defaults, text
mode forced at line 200, `lineAddr` recomputed. -/
def lineReset (s : State) : State :=
  let text := if s.windowLine = Config.hiresLines then true else s.textMode
  { s with
    doubleHeight := false
    charline := lineAnd7 s.windowLine
    ink := Config.white
    paper := Config.black
    blink := false
    blinkMask := 63#6
    charset := 0#1
    charsetAddr := s.charsetBase
    textMode := text
    lineAddr := lineAddrOf text s.windowLine }

/-- The toggle of the buffer roles (44_frame_handoff.md R125); `toggles` is the model's count. -/
def toggle (s : State) : State :=
  { s with activeIndex := s.activeIndex.other, ready := true, toggles := s.toggles + 1 }

/-- `FrameWrap()` (40_raster_timing.md R91): the toggle is its last action. -/
def frameWrap (s : State) : State :=
  toggle (lineReset { s with
    verticalCounter := 0
    windowLine := -9
    pixelCounter := 0
    frameCount := (s.frameCount + 1) % 2 ^ s.frameCountBits
    textMode := !s.hiresMode })

/-- The move to the start of the next line, before its conditional actions (40_raster_timing.md
R86). -/
def nextLine (s : State) : State :=
  { s with
    horizontalCounter := 0
    verticalCounter := s.verticalCounter + 1
    windowLine := ((s.verticalCounter + 1 : Nat) : Int) - Config.vTopBlank }

/-- The per-line reset of a line wrap, made when the new line number is below 224 (R87). -/
def lineResetIfAbove (s : State) : State :=
  if s.windowLine < Config.vVisLines then lineReset s else s

/-- A line wrap: the move, the per-line reset, then the frame wrap test (40_raster_timing.md R86,
R87, R90, R92). -/
def lineWrap (s : State) : State :=
  let t := lineResetIfAbove (nextLine s)
  if t.verticalCounter = t.totalLines then { frameWrap t with stepResult := some true }
  else { t with stepResult := some false }

/-- The end of every STEP: `horizontalCounter` plus one, and the line wrap when it reaches 64
(40_raster_timing.md R83, R85, R86). -/
def advance (s : State) : State :=
  if s.horizontalCounter + 1 = Config.hTotal then
    lineWrap { s with horizontalCounter := s.horizontalCounter + 1 }
  else { s with horizontalCounter := s.horizontalCounter + 1, stepResult := some false }

end Sys2Proof.Machine
end

