-- ==== Sys2Proof/Machine/Chip.lean ====
section
/-! DEFINITION. The operation STEP: one cycle of the chip (40_raster_timing.md R81 to R84,
41_cell_fetch_data.md R98, R99). -/

namespace Sys2Proof.Machine

/-- `RenderCell(mem)`: the stream fetch, then the code it fetched (41_cell_fetch_data.md R98). -/
def renderCell (s : State) : Result :=
  match memRead .stream (streamAddr s) s with
  | .error f => raiseFault f
  | .ok (screenCode, t) => exec (decodeByte screenCode) t

/-- `STEP(mem)` (40_raster_timing.md R83): the cell if the cycle is visible, then the counters. A
faulted block does nothing and returns nothing (R81, 60_exceptions.md R142). -/
def chipStep (s : State) : Result :=
  if s.faulted then .next { s with stepResult := none, busReads := [] }
  else if inWindow s then
    andThen (renderCell { s with busReads := [] }) (fun t => .next (advance t))
  else .next (advance { s with busReads := [] })

end Sys2Proof.Machine
end

