-- ==== Sys2Proof/Machine/Agents.lean ====
section
/-! DEFINITION. The other operations of the agents: RESET, POLL, DUMP, the processor's write and the
consumer's read, and which operation comes next (00_scope.md R12, 44_frame_handoff.md R133). -/

namespace Sys2Proof.Machine

/-- What the consumer can reach of the current block's sink. -/
def State.sinkView (s : State) : SinkView where
  block := s.blockId
  buf0 := s.buf0
  buf1 := s.buf1
  size := s.bufferSize
  toggles := s.toggles
  pixelCounter := s.pixelCounter

/-! ### RESET -/

/-- The `palFreq` a legal profile gives; none for any other value (70_reset_and_hazards.md R159,
R160). -/
def ProfileArg.palFreq : ProfileArg → Except Nat Bool
  | .omitted => .ok true
  | .pal312 => .ok true
  | .hz60_264 => .ok false
  | .other code => .error code

/-- The new block of an accepted RESET beside the same environment: nothing of the old block carries
over, and its sink is written no more (70_reset_and_hazards.md R163; log 14). -/
def newBlock (palFreq : Bool) (width height : Nat) (s : State) : State :=
  { State.fresh palFreq width height with
    frameCountBits := s.frameCountBits
    mem := s.mem
    schedule := s.schedule
    blockId := s.blockId + 1
    handed := s.handed
    retired := s.retired ++ [s.sinkView]
    freeReads := s.freeReads }

/-- `RESET(profile, width, height)` (70_reset_and_hazards.md R159): the profile is checked first
(60_exceptions.md R147), then the geometry (R160, R161). A RESET that fails while a block is running
ends the run (DESIGN CHOICE, log 23). -/
def resetBlock (profile : ProfileArg) (width height : Int) (s : State) : Result :=
  match profile.palFreq with
  | .error code => raiseFault (.configProfile code)
  | .ok palFreq =>
    if width ≤ 0 ∨ height ≤ 0 then raiseFault (.configGeometry width height)
    else if width * height < Config.framePixels then raiseFault (.configGeometry width height)
    else .next (newBlock palFreq width.toNat height.toNat s)

/-! ### POLL and DUMP -/

/-- The reference a POLL returns: the buffer that is not active (44_frame_handoff.md R130). -/
def State.completedRef (s : State) : FrameRef := ⟨s.blockId, s.activeIndex.other, s.toggles⟩

/-- `POLL()` (44_frame_handoff.md R130): test-and-clear of `ready`. Of a faulted block it has no
effect and no result (60_exceptions.md R142). -/
def poll (s : State) : Result :=
  if s.faulted then .next { s with pollResult := none }
  else if s.ready then
    .next { s with
      ready := false
      pollResult := some (some s.completedRef)
      handed := s.handed ++ [s.completedRef] }
  else .next { s with pollResult := some none }

/-- `DUMP()` (44_frame_handoff.md R132): the three counters, nothing written. Of a faulted block it
has no result (60_exceptions.md R142). -/
def dump (s : State) : Result :=
  if s.faulted then .next { s with dumpResult := none }
  else .next { s with dumpResult := some ⟨s.frameCount, s.horizontalCounter, s.verticalCounter⟩ }

/-! ### The processor and the consumer's reads -/

/-- The processor's write of one byte of the MemoryBus (20_memory.md R49). -/
def busWrite (address : BitVec 16) (value : Byte) (s : State) : Result :=
  .next { s with mem := s.mem.write address.toNat value }

/-- Buffer `b` of a sink. -/
def SinkView.buf (v : SinkView) : BufIndex → Pixels
  | .zero => v.buf0
  | .one => v.buf1

/-- Pixel `off` of buffer `b` of a sink, unspecified where no store was made (10_state.md R36). -/
def SinkView.pixel (v : SinkView) (b : BufIndex) (off : Nat) : Colour :=
  (Pixels.stored (v.buf b) off).getD (Config.unspecifiedPixel v.block b.toNat off)

/-- Whether a reference is inside its validity window: from its POLL until the first pixel store
after the next toggle (44_frame_handoff.md R131). After a toggle `pixelCounter` is 0 until that
store. -/
def SinkView.valid (v : SinkView) (ref : FrameRef) : Bool :=
  decide (v.toggles = ref.toggle) ||
    (decide (v.toggles = ref.toggle + 1) && decide (v.pixelCounter = 0))

/-- The sink of block number `block`: the current one, or one a RESET replaced. -/
def State.sinkOf (s : State) (block : Nat) : Option SinkView :=
  if block = s.blockId then some s.sinkView else s.retired.find? (fun v => v.block = block)

/-- The consumer's read of one pixel through a reference (44_frame_handoff.md R131): the pixel
inside the validity window, any value after it (U3; log 6). What a POLL did not return, or an
offset outside the buffer, cannot be read and is refused by name (20_memory.md R56). Whether a
consumer may still read once the block is faulted the spec does not say, since 60_exceptions.md R142
names only STEP, POLL and DUMP; DESIGN CHOICE: the read goes on as before (log 22, unsafe). -/
def readPixel (nth offset : Nat) (s : State) : Result :=
  match s.handed[nth]? with
  | none => .refused (.noSuchReference nth)
  | some ref =>
    match s.sinkOf ref.block with
    | none => .refused (.noSuchReference nth)
    | some v =>
      if v.size ≤ offset then .refused (.readBeyondBuffer offset)
      else if v.valid ref then .next { s with readResult := some (v.pixel ref.buffer offset) }
      else
        .next { s with
          readResult := some (Config.tornPixel s.freeReads)
          freeReads := s.freeReads + 1 }

/-- What the platform shows for the consumer's last read: `PALETTE` of its index
(43_colour_output.md R118, 10_state.md R40). -/
def State.shownPixel (s : State) : Option Nat := s.readResult.map Config.palette

/-! ### Which operation comes next -/

/-- One operation of an agent. -/
def runOp (op : AgentOp) (s : State) : Result :=
  match op with
  | .step => chipStep s
  | .reset profile width height => resetBlock profile width height s
  | .poll => poll s
  | .dump => dump s
  | .busWrite address value => busWrite address value s
  | .readPixel nth offset => readPixel nth offset s

/-- One whole operation: the oldest the agents have issued, or one STEP when none is pending
(00_scope.md R12, 44_frame_handoff.md R133; log 1). -/
def agentStep (s : State) : Result :=
  match s.schedule with
  | [] => chipStep s
  | op :: rest => runOp op { s with schedule := rest }

/-! ### Placing an instruction for the next STEP -/

/-- The block as it stands on entry to the first visible cell of a frame (40_raster_timing.md R94:
588 cycles after a fresh frame start). -/
def atFirstCell (s : State) : State :=
  lineReset { s with
    horizontalCounter := Config.hVisFirst
    verticalCounter := Config.vTopBlank
    windowLine := 0
    pixelCounter := 0
    textMode := !s.hiresMode }

/-- Whether a STEP of `s` would fetch a stream byte from an address that exists. -/
def fetches (s : State) : Bool :=
  inWindow s && decide (0 ≤ streamAddr s ∧ streamAddr s ≤ Config.lastAddress)

/-- `s` with the byte `b` where its next STEP fetches: no operation pending, the block not faulted,
the raster at a visible cell, and `b` in memory there (log 17). -/
def placeCode (b : Byte) (s : State) : State :=
  let t := if fetches s then s else atFirstCell s
  { t with
    schedule := []
    faulted := false
    mem := t.mem.write (streamAddr t).toNat b }

end Sys2Proof.Machine
end

