-- ==== Sys2Proof/Machine/Step.lean ====
section
/-! DEFINITION. One step of the machine, and placing an instruction where it is fetched. -/

namespace Sys2Proof.Machine

/-- One step: one whole operation of an agent (00_scope.md R12, R13). -/
def step (s : State) : Host.Outcome State Fault Refusal := agentStep s

/-- `s` with the table word `w` of `nbits` bits where the next STEP fetches its stream byte. -/
def State.withFetchWord (s : State) (nbits w : Nat) : State := placeCode (tableByte nbits w) s

end Sys2Proof.Machine
end

