-- ==== Sys2Proof/Safety.lean ====
section
/-! DEFINITION. What the statements are about: the invariants of a running block, what a cell needs
and what it stores, and what the producer and the consumer can see. -/

namespace Sys2Proof.Machine

/-! ### Invariants -/

/-- The value of `pixelCounter` that 10_state.md R43 (j) gives for a raster position. -/
def pixelsDrawn (windowLine : Int) (horizontalCounter : Nat) : Int :=
  if windowLine < 0 then 0
  else if windowLine ≤ 223 then
    windowLine * 240 + min 40 (max 0 ((horizontalCounter : Int) - 12)) * 6
  else 53760

/-- The invariants of 10_state.md R43, (a) to (k). Clause (g) holds only on lines below 224, where
the per-line reset keeps it; from line 224 on `charline` and `lineAddr` keep the values of line 223
(40_raster_timing.md R87, 95_test_vectors.md section 3.1; log 10). -/
structure RasterInv (s : State) : Prop where
  a_horizontal : s.horizontalCounter ≤ 63
  b_vertical : s.verticalCounter < s.totalLines
  c_windowLine : s.windowLine = (s.verticalCounter : Int) - 9
  d_textMode : s.textMode = (!s.hiresMode || decide (200 ≤ s.windowLine))
  e_charsetBase : s.charsetBase = if s.hiresMode then 0x9800 else 0xB400
  f_charsetAddr : s.charsetAddr = s.charsetBase + s.charset.toNat * 1024
  g_charline : s.windowLine < 224 →
    (s.charline : Int) = if s.doubleHeight then s.windowLine % 16 / 2 else s.windowLine % 8
  g_charlineKept : 224 ≤ s.windowLine → s.charline = 7
  h_lineAddr : s.windowLine < 224 → s.lineAddr =
    if s.textMode then 0xBB80 + s.windowLine / 8 * 40 else 0xA000 + s.windowLine * 40
  h_lineAddrKept : 224 ≤ s.windowLine → s.lineAddr = 0xBFB8
  i_blinkMask : s.blinkMask = if s.blink && s.frameCount.testBit 4 then 0#6 else 63#6
  j_pixelCounter : (s.pixelCounter : Int) = pixelsDrawn s.windowLine s.horizontalCounter
  k_totalLines : s.totalLines = if s.palFreq then 312 else 264

/-- The parameters are in their domains (00_scope.md R8) and `frameCount` is in its (10_state.md
R35). -/
structure ParamInv (s : State) : Prop where
  geometry : 53760 ≤ s.screenWidth * s.screenHeight
  width : 5 ≤ s.frameCountBits
  frameCount : s.frameCount < 2 ^ s.frameCountBits

/-- Every offset of the visible frame has been stored to in this buffer at some time since RESET. It
does not say in which frame: that a polled buffer holds the pixels of one frame is said of runs. -/
def FullyStored (p : Pixels) : Prop := ∀ off < 53760, (Pixels.stored p off).isSome

/-- The buffer that is active after `n` toggles: they alternate from buffer 0. -/
def activeAfter (n : Nat) : BufIndex := if n % 2 = 0 then .zero else .one

/-- The frame sink (44_frame_handoff.md R126, R129, R134): the active buffer holds every pixel drawn
so far and nothing lies beyond the frame; a buffer that has been completed stays fully stored; a
frame is ready only after a toggle. -/
structure SinkInv (s : State) : Prop where
  zero_canonical : Pixels.wfBelow 53760 s.buf0
  one_canonical : Pixels.wfBelow 53760 s.buf1
  active : s.activeIndex = activeAfter s.toggles
  drawn : ∀ off < s.pixelCounter, (Pixels.stored (s.buf s.activeIndex) off).isSome
  completed : 1 ≤ s.toggles → FullyStored (s.buf s.activeIndex.other)
  redrawn : 2 ≤ s.toggles → FullyStored (s.buf s.activeIndex)
  ready_completed : s.ready → 1 ≤ s.toggles

/-- The references POLLs have handed out (44_frame_handoff.md R131): each was of the buffer that was
not active at its POLL, after at least one toggle, and still names a sink; inside its validity
window the buffer it names is fully stored. -/
structure HandedInv (s : State) : Prop where
  current : ∀ ref ∈ s.handed, ref.block = s.blockId →
    1 ≤ ref.toggle ∧ ref.toggle ≤ s.toggles ∧ ref.buffer = (activeAfter ref.toggle).other
  retired_older : ∀ v ∈ s.retired, v.block < s.blockId
  known : ∀ ref ∈ s.handed, ∃ v, s.sinkOf ref.block = some v ∧ v.block = ref.block
  complete : ∀ ref ∈ s.handed, ∀ v, s.sinkOf ref.block = some v → v.valid ref →
    FullyStored (v.buf ref.buffer) ∧ 53760 ≤ v.size

/-- What holds of every state a run reaches. -/
structure MachineInv (s : State) : Prop where
  raster : RasterInv s
  params : ParamInv s
  sink : SinkInv s
  handed : HandedInv s
  memory : s.mem.wf

/-! ### The cell -/

/-- What a cell of the stream byte `b` needs to be drawn: in text mode a glyph address that exists,
and room for six pixels. -/
def CellReady (b : Byte) (s : State) : Prop :=
  (s.textMode → glyphAddr b s ≤ 65535) ∧ s.pixelCounter + 6 ≤ s.screenWidth * s.screenHeight

/-- The MemoryBus reads a cell of the stream byte `b` makes after its stream fetch (20_memory.md
R48). -/
def cellReads (b : Byte) (s : State) : List BusRead :=
  if s.textMode then [⟨.glyph, glyphAddr b s⟩] else []

/-- The byte a data cell takes its dots from (41_cell_fetch_data.md R100, R101). -/
def cellSource (b : Byte) (s : State) : Byte :=
  if s.textMode then s.mem.read (glyphAddr b s).toNat else b

/-- The byte whose low six bits are the dots of the cell of the stream byte `b`: 0 for a control code,
the source under the blink mask for a data code (41_cell_fetch_data.md R98, R103). -/
def cellDots (b : Byte) (s : State) : Byte :=
  if b &&& 0x60#8 = 0#8 then 0#8 else cellSource b s &&& s.blinkMask.setWidth 8

/-- From `s` to `t` exactly six pixels were stored, in the buffer active at `s`, at `pixelCounter`
and the five offsets after it, dot `d` with `colour d`; every other pixel of either buffer is as it
was. -/
def CellStores (s t : State) (colour : Nat → Colour) : Prop :=
  ∀ b off, Pixels.stored (t.buf b) off =
    if b = s.activeIndex ∧ s.pixelCounter ≤ off ∧ off < s.pixelCounter + 6 then
      some (colour (off - s.pixelCounter))
    else Pixels.stored (s.buf b) off

/-- The stream byte of a visible cycle that `s` enters (41_cell_fetch_data.md R99). -/
def streamByte (s : State) : Byte := s.mem.read (streamAddr s).toNat

/-- The colour of dot `d` of the cell that the step from `s` to `t` draws: from the stream byte, the
dots of its cell, and `ink` and `paper` as its own action leaves them (43_colour_output.md R117). -/
def cellDotColour (s t : State) (d : Nat) : Colour :=
  dotColour (streamByte s) (cellDots (streamByte s) s) t.ink t.paper d

/-- `t` differs from `s` only in the two frame buffers, `pixelCounter`, six higher, and the noted
reads of the cell of `b`: what drawing a cell changes besides the code's own registers. -/
def drawnFrom (b : Byte) (s t : State) : State :=
  { s with
    pixelCounter := s.pixelCounter + 6
    buf0 := t.buf0
    buf1 := t.buf1
    busReads := s.busReads ++ cellReads b s }

/-! ### What a step adds around an instruction -/

/-- A result with its next state changed by `g`. -/
def mapNext (g : State → State) : Result → Result
  | .next s => .next (g s)
  | .fault f => .fault f
  | .refused e => .refused e

/-- The registers a code's cell never writes and only the raster, the sink and the agents do
(60_exceptions.md R149): equal in `s` and `t`. -/
def SameBeyondStream (s t : State) : Prop :=
  t.horizontalCounter = s.horizontalCounter ∧ t.verticalCounter = s.verticalCounter ∧
  t.windowLine = s.windowLine ∧ t.frameCount = s.frameCount ∧ t.activeIndex = s.activeIndex ∧
  t.ready = s.ready ∧ t.faulted = s.faulted ∧ t.screenWidth = s.screenWidth ∧
  t.screenHeight = s.screenHeight ∧ t.frameCountBits = s.frameCountBits ∧ t.mem = s.mem ∧
  t.schedule = s.schedule ∧ t.stepResult = s.stepResult ∧ t.pollResult = s.pollResult ∧
  t.dumpResult = s.dumpResult ∧ t.readResult = s.readResult ∧ t.blockId = s.blockId ∧
  t.toggles = s.toggles ∧ t.handed = s.handed ∧ t.retired = s.retired ∧ t.freeReads = s.freeReads

/-- What the producer's behaviour can depend on: the state without the consumer's side of the sink,
the results and the pending operations (44_frame_handoff.md R128). -/
def producerView (s : State) : State :=
  { s with
    ready := false
    schedule := []
    pollResult := none
    dumpResult := none
    readResult := none
    handed := []
    retired := []
    freeReads := 0 }

/-- The values of the reset table, 10_state.md R44, for a profile's `palFreq`: every register of the
block, and no pixel stored in either buffer. -/
structure ResetValues (t : State) (pal : Bool) : Prop where
  horizontalCounter : t.horizontalCounter = 0
  verticalCounter : t.verticalCounter = 0
  windowLine : t.windowLine = -9
  pixelCounter : t.pixelCounter = 0
  palFreq : t.palFreq = pal
  totalLines : t.totalLines = if pal then 312 else 264
  hiresMode : t.hiresMode = false
  textMode : t.textMode = true
  charset : t.charset = 0#1
  charsetBase : t.charsetBase = 0xB400
  charsetAddr : t.charsetAddr = 0xB400
  charline : t.charline = 7
  doubleHeight : t.doubleHeight = false
  blink : t.blink = false
  blinkMask : t.blinkMask = 63#6
  ink : t.ink = 7#3
  paper : t.paper = 0#3
  lineAddr : t.lineAddr = 0xBB30
  frameCount : t.frameCount = 0
  buffers : ∀ b off, Pixels.stored (t.buf b) off = none
  activeIndex : t.activeIndex = .zero
  ready : t.ready = false
  faulted : t.faulted = false

/-- A fresh frame start of a running block: both raster counters 0 (00_scope.md R14), not faulted,
no operation pending, and the invariants. -/
structure FreshFrame (s : State) : Prop where
  inv : MachineInv s
  horizontal : s.horizontalCounter = 0
  vertical : s.verticalCounter = 0
  running : s.faulted = false
  idle : s.schedule = []

end Sys2Proof.Machine
end

