-- ==== Sys2Proof/Certificates/Slice0/Obligations.lean ====
section
/-! DEFINITION. The statements for the provers, from the numbered rules of spec/. -/

open Sys2Proof Sys2Proof.Machine

/-! ### Encoding -/

/-- Every byte value matches exactly one row of the opcode table, the row of the instruction it
decodes to (30_encoding.md section 4 and section 8). -/
def Obligations.EveryByteMatchesExactlyItsTableRow : Prop :=
  ∀ b : Byte, ((opcodeRows.filter (fun row => b &&& row.mask == row.pattern)).map (·.mnemonic)) =
    [(decodeByte b).mnemonic]

/-- 30_encoding.md R68 to R71: the group of a control code selects INK, ATTR, PAPER or MODE, with no
fifth case; the values and operands of INK, ATTR and PAPER. -/
def Obligations.ControlGroupSelectsCodeAndOperands : Prop :=
  ∀ b : Byte,
    (b &&& 0x60#8 = 0#8 →
      (b &&& 0x18#8 = 0x00#8 ∨ b &&& 0x18#8 = 0x08#8 ∨ b &&& 0x18#8 = 0x10#8 ∨
        b &&& 0x18#8 = 0x18#8) ∧
      (b &&& 0x18#8 = 0x00#8 →
        decodeByte b = .ink (b.getLsbD 7) ((b &&& 7#8).setWidth 3)) ∧
      (b &&& 0x18#8 = 0x08#8 → decodeByte b =
        .attr (b.getLsbD 7) (b.getLsbD 2) (b.getLsbD 1) (b.getLsbD 0)) ∧
      (b &&& 0x18#8 = 0x10#8 →
        decodeByte b = .paper (b.getLsbD 7) ((b &&& 7#8).setWidth 3)) ∧
      (b &&& 0x18#8 = 0x18#8 → decodeByte b =
        .mode (b.getLsbD 7) (b.getLsbD 2) (b.getLsbD 1) (b.getLsbD 0))) ∧
    (b &&& 0x78#8 = 0x00#8 ↔ b.toNat ≤ 0x07 ∨ (0x80 ≤ b.toNat ∧ b.toNat ≤ 0x87)) ∧
    (b &&& 0x78#8 = 0x08#8 ↔
      (0x08 ≤ b.toNat ∧ b.toNat ≤ 0x0F) ∨ (0x88 ≤ b.toNat ∧ b.toNat ≤ 0x8F)) ∧
    (b &&& 0x78#8 = 0x10#8 ↔
      (0x10 ≤ b.toNat ∧ b.toNat ≤ 0x17) ∨ (0x90 ≤ b.toNat ∧ b.toNat ≤ 0x97)) ∧
    (b &&& 0x78#8 = 0x00#8 ↔ ∃ r c, decodeByte b = .ink r c) ∧
    (b &&& 0x78#8 = 0x08#8 ↔ ∃ r b' d a, decodeByte b = .attr r b' d a) ∧
    (b &&& 0x78#8 = 0x10#8 ↔ ∃ r c, decodeByte b = .paper r c)

/-- 30_encoding.md sections 1 and 2: the bytes with bits 6 and 5 set otherwise than both clear are the
three data rows by those bits, with bit 7 and the low seven bits as operands, whatever bit 7 is; the
others are the control codes. -/
def Obligations.DataCodesDecodeByClass : Prop :=
  ∀ b : Byte,
    (b &&& 0x60#8 = 0x20#8 → decodeByte b = .data1 (b.getLsbD 7) (b.setWidth 7)) ∧
    (b &&& 0x60#8 = 0x40#8 → decodeByte b = .data2 (b.getLsbD 7) (b.setWidth 7)) ∧
    (b &&& 0x60#8 = 0x60#8 → decodeByte b = .data3 (b.getLsbD 7) (b.setWidth 7)) ∧
    (b &&& 0x60#8 = 0#8 ↔ b.toNat ≤ 0x1F ∨ (0x80 ≤ b.toNat ∧ b.toNat ≤ 0x9F)) ∧
    (b &&& 0x60#8 = 0#8 ↔ (decodeByte b).mnemonic ∈ ["INK", "ATTR", "PAPER", "MODE"])

/-- Decoding the bytes of a well-formed instruction gives it back, and leaves the bytes after it. -/
def Obligations.DecodeOfEncodeIsTheInstruction : Prop :=
  ∀ (i : Instr) (rest : List Byte), i.wellFormed = true → decode (encode i ++ rest) = .ok (i, rest)

/-- Every byte decodes to a well-formed instruction whose encoding is that byte. -/
def Obligations.EncodeOfDecodeIsTheByte : Prop :=
  ∀ b : Byte, (decodeByte b).wellFormed = true ∧ encode (decodeByte b) = [b]

/-- Words written out from 30_encoding.md decode to the codes they stand for: MODE 6 (0x1E), INK 1
reversed (0x81), ATTR 7 reversed (0x8F), PAPER 4 (0x14) and data codes of each class. -/
def Obligations.SampleWordsDecode : Prop :=
  decode [0b00011110#8] = .ok (.mode false true true false, []) ∧
  decode [0b10000001#8] = .ok (.ink true 1#3, []) ∧
  decode [0b10001111#8] = .ok (.attr true true true true, []) ∧
  decode [0b00010100#8] = .ok (.paper false 4#3, []) ∧
  decode [0b00101010#8] = .ok (.data1 false 0x2A#7, []) ∧
  decode [0b11000001#8] = .ok (.data2 true 0x41#7, []) ∧
  decode [0b01111111#8] = .ok (.data3 false 0x7F#7, [])

/-! ### A step runs the decoded instruction -/

/-- In a visible cycle of a running block with no other operation pending, the byte at the stream
address, if that address exists, is decoded and run; around it the step notes the stream read,
advances `horizontalCounter` by one and reports that no frame was completed (40_raster_timing.md
sections 2 and 3). That the cell is drawn with the entry counters, before they advance, is the spec's
own decision D2 (log 9); the noted reads are log 15's. -/
def Obligations.StepRunsTheDecodedInstruction : Prop :=
  ∀ (s : State) (i : Instr), s.schedule = [] → s.faulted = false →
    12 ≤ s.horizontalCounter → s.horizontalCounter ≤ 51 → 0 ≤ s.windowLine → s.windowLine ≤ 223 →
    0 ≤ streamAddr s → streamAddr s ≤ 65535 →
    decode [s.mem.read (streamAddr s).toNat] = .ok (i, []) →
    step s = mapNext
      (fun t => { t with horizontalCounter := t.horizontalCounter + 1, stepResult := some false })
      (exec i { s with busReads := [⟨.stream, streamAddr s⟩] })

/-- The byte that `withFetchWord` places is the one the very next step fetches, decodes and runs
(the model's own interface; log 17). -/
def Obligations.PlacedCodeRunsAtTheNextStep : Prop :=
  ∀ (s : State) (w : Nat), s.mem.wf = true → w < 256 →
    ∃ i, decodeTableWord 8 w = some i ∧ encode i = [BitVec.ofNat 8 w] ∧
      step (s.withFetchWord 8 w) = mapNext
        (fun t => { t with horizontalCounter := t.horizontalCounter + 1, stepResult := some false })
        (exec i { s.withFetchWord 8 w with
          busReads := [⟨.stream, streamAddr (s.withFetchWord 8 w)⟩] })

/-- A step performs the oldest operation the agents have issued, or one STEP when none is pending.
The order is the model's choice of how to write an interleaving down (log 1); that whole operations
interleave is 44_frame_handoff.md section 4. -/
def Obligations.StepPerformsTheOldestOperation : Prop :=
  (∀ s, s.schedule = [] → step s = chipStep s) ∧
  ∀ s op rest, s.schedule = op :: rest → step s = runOp op { s with schedule := rest }

/-! ### The stream codes -/

/-- INK sets `ink` and nothing else of the registers, draws its own cell blank, and lasts until another
INK or the line's end, where `ink` is white again (42_control_codes.md section 2). That white is
index 7 is the spec's general knowledge (log 4). That a reversed cell is drawn in ink, and in the new
ink, are its decisions D8 and D9, and the glyph read its D19 (log 9; the record of reads is log 15's). -/
def Obligations.InkSetsInkUntilTheLineEnds : Prop :=
  (∀ r c s, CellReady (encodeByte (.ink r c)) s → ∃ t, exec (.ink r c) s = .next t ∧
    t = { drawnFrom (encodeByte (.ink r c)) s t with ink := c } ∧
    CellStores s t (fun _ => if r then c else s.paper)) ∧
  (∀ i s t, (∀ r c, i ≠ .ink r c) → exec i s = .next t → t.ink = s.ink) ∧
  (∀ s, s.horizontalCounter ≠ 63 → (advance s).ink = s.ink) ∧
  (∀ s, s.horizontalCounter = 63 → s.verticalCounter + 1 < 233 → (advance s).ink = 7#3)

/-- PAPER sets `paper` and nothing else of the registers, its own cell already shows the new paper, and
it lasts until another PAPER or the line's end, where `paper` is black again (42_control_codes.md
section 2). That black is index 0 is the spec's general knowledge (log 4). That the code's own cell is
drawn in the new paper, and in ink when reversed, are its decisions D9 and D8, and the glyph read its
D19 (log 9; the record of reads is log 15's). -/
def Obligations.PaperSetsPaperUntilTheLineEnds : Prop :=
  (∀ r c s, CellReady (encodeByte (.paper r c)) s → ∃ t, exec (.paper r c) s = .next t ∧
    t = { drawnFrom (encodeByte (.paper r c)) s t with paper := c } ∧
    CellStores s t (fun _ => if r then s.ink else c)) ∧
  (∀ i s t, (∀ r c, i ≠ .paper r c) → exec i s = .next t → t.paper = s.paper) ∧
  (∀ s, s.horizontalCounter ≠ 63 → (advance s).paper = s.paper) ∧
  (∀ s, s.horizontalCounter = 63 → s.verticalCounter + 1 < 233 → (advance s).paper = 0#3)

/-- ATTR writes its six registers, all of them every time, and nothing else, draws its own cell blank,
and they stay within the line until another ATTR (42_control_codes.md section 2; MODE recomputes
`charsetAddr` from the kept `charset`); a wrap into a line below 224 sets five of them to their per-line
values (40_raster_timing.md section 3). The sixth, `charline`, at a wrap is said by
LineWrapResetsLineStateBelowLine224 and FrameWrapStartsTheNextFrameAndToggles. That a reversed cell is drawn in ink is the spec's own decision
D8, and the glyph read its D19 (log 9; the record of reads is log 15's). -/
def Obligations.AttrSetsItsSixRegistersUntilTheLineEnds : Prop :=
  (∀ r b d a s, CellReady (encodeByte (.attr r b d a)) s → ∃ t,
    exec (.attr r b d a) s = .next t ∧
    t = { drawnFrom (encodeByte (.attr r b d a)) s t with
      charset := if a then 1#1 else 0#1
      charsetAddr := s.charsetBase + (if a then 1024 else 0)
      doubleHeight := d
      charline := if d then (s.windowLine % 16 / 2).toNat else (s.windowLine % 8).toNat
      blink := b
      blinkMask := if b && s.frameCount.testBit 4 then 0#6 else 63#6 } ∧
    CellStores s t (fun _ => if r then s.ink else s.paper)) ∧
  (∀ i s t, (∀ r b d a, i ≠ .attr r b d a) → exec i s = .next t →
    t.charset = s.charset ∧ t.doubleHeight = s.doubleHeight ∧ t.charline = s.charline ∧
    t.blink = s.blink ∧ t.blinkMask = s.blinkMask ∧
    ((∀ r h f x, i ≠ .mode r h f x) → t.charsetAddr = s.charsetAddr)) ∧
  (∀ s, s.horizontalCounter ≠ 63 →
    (advance s).charset = s.charset ∧ (advance s).charsetAddr = s.charsetAddr ∧
    (advance s).doubleHeight = s.doubleHeight ∧ (advance s).charline = s.charline ∧
    (advance s).blink = s.blink ∧ (advance s).blinkMask = s.blinkMask) ∧
  (∀ s, s.horizontalCounter = 63 → s.verticalCounter + 1 < 233 →
    (advance s).charset = 0#1 ∧ (advance s).charsetAddr = s.charsetBase ∧
    (advance s).doubleHeight = false ∧ (advance s).blink = false ∧ (advance s).blinkMask = 63#6)

/-- MODE writes its seven registers, all of them every time, and nothing else; bit 0 has no part in
them; they last until another MODE, for nothing else but RESET writes `palFreq` or `hiresMode`
(42_control_codes.md section 2). Which glyph base goes with which mode is the spec's own decision D5,
that a reversed cell is drawn in ink its D8, and the glyph read its D19 (log 9; the record of reads is
log 15's). -/
def Obligations.ModeSetsItsSevenRegisters : Prop :=
  (∀ r h f x s, CellReady (encodeByte (.mode r h f x)) s → ∃ t,
    exec (.mode r h f x) s = .next t ∧
    t = { drawnFrom (encodeByte (.mode r h f x)) s t with
      palFreq := f
      totalLines := if f then 312 else 264
      hiresMode := h
      charsetBase := if h then 0x9800 else 0xB400
      charsetAddr := (if h then 0x9800 else 0xB400) + s.charset.toNat * 1024
      textMode := !h || decide (200 ≤ s.windowLine)
      lineAddr := if !h || decide (200 ≤ s.windowLine) then 0xBB80 + s.windowLine / 8 * 40
        else 0xA000 + s.windowLine * 40 } ∧
    CellStores s t (fun _ => if r then s.ink else s.paper)) ∧
  (∀ i s t, (∀ r h f x, i ≠ .mode r h f x) → exec i s = .next t →
    t.palFreq = s.palFreq ∧ t.totalLines = s.totalLines ∧ t.hiresMode = s.hiresMode ∧
    t.charsetBase = s.charsetBase ∧ t.textMode = s.textMode ∧ t.lineAddr = s.lineAddr) ∧
  (∀ s, (advance s).palFreq = s.palFreq ∧ (advance s).totalLines = s.totalLines ∧
    (advance s).hiresMode = s.hiresMode ∧ (advance s).charsetBase = s.charsetBase) ∧
  (∀ op s t, op ≠ .step → (∀ p w h, op ≠ .reset p w h) → runOp op s = .next t →
    t.palFreq = s.palFreq ∧ t.hiresMode = s.hiresMode)

/-- 41_cell_fetch_data.md R103: a data code of any class draws the six low bits of its `cellData`
under the blink mask, foreground for a dot and background otherwise, and changes no register. What
foreground and background are under reverse video is another statement's. -/
def Obligations.DataCodeDrawsItsMaskedDots : Prop :=
  ∀ i r code s, (i = .data1 r code ∨ i = .data2 r code ∨ i = .data3 r code) →
    CellReady (encodeByte i) s → ∃ t, exec i s = .next t ∧
      t = drawnFrom (encodeByte i) s t ∧
      CellStores s t (fun d =>
        if (cellSource (encodeByte i) s).getLsbD (5 - d) && s.blinkMask.getLsbD (5 - d) then
          foreground (encodeByte i) s.ink s.paper
        else background (encodeByte i) s.ink s.paper)

/-- 41_cell_fetch_data.md R104: after an ATTR with blink, data cells show for the 16 frames in which
`frameCount & 16` is 0 and are blank for the next 16; the mask stands until another ATTR or the
line's end, in text and in hires rendering. -/
def Obligations.BlinkShowsAndSuppressesSixteenFramesEach : Prop :=
  (∀ r d a s, CellReady (encodeByte (.attr r true d a)) s → ∃ t,
    exec (.attr r true d a) s = .next t ∧
    t.blinkMask = if s.frameCount / 16 % 2 = 0 then 63#6 else 0#6) ∧
  (∀ i s t, (∀ r b d a, i ≠ .attr r b d a) → exec i s = .next t → t.blinkMask = s.blinkMask) ∧
  (∀ s, s.horizontalCounter ≠ 63 → (advance s).blinkMask = s.blinkMask) ∧
  (∀ s, s.horizontalCounter = 63 → s.verticalCounter + 1 < 233 → (advance s).blinkMask = 63#6) ∧
  (∀ i r code s, (i = .data1 r code ∨ i = .data2 r code ∨ i = .data3 r code) →
    CellReady (encodeByte i) s → ∃ t, exec i s = .next t ∧
      (s.blinkMask = 0#6 → CellStores s t (fun _ => background (encodeByte i) s.ink s.paper)) ∧
      (s.blinkMask = 63#6 → CellStores s t (fun d =>
        if (cellSource (encodeByte i) s).getLsbD (5 - d) then
          foreground (encodeByte i) s.ink s.paper
        else background (encodeByte i) s.ink s.paper)))

/-- Reverse video exchanges the roles of ink and paper for a cell, and leaves the registers as they
are: bit 7 makes paper the foreground and ink the background, and a reversed data code draws what the
plain one draws with `ink` and `paper` exchanged. That the exchange is the meaning is the spec's own
decision D8 (log 9). -/
def Obligations.ReverseVideoExchangesInkAndPaper : Prop :=
  (∀ b ink paper,
    (b.getLsbD 7 = true → foreground b ink paper = paper ∧ background b ink paper = ink) ∧
    (b.getLsbD 7 = false → foreground b ink paper = ink ∧ background b ink paper = paper)) ∧
  ∀ i i' code s,
    ((i = .data1 false code ∧ i' = .data1 true code) ∨
      (i = .data2 false code ∧ i' = .data2 true code) ∨
      (i = .data3 false code ∧ i' = .data3 true code)) →
    CellReady (encodeByte i') s → ∃ t t',
      exec i' s = .next t' ∧ exec i { s with ink := s.paper, paper := s.ink } = .next t ∧
      (∀ b off, Pixels.stored (t'.buf b) off = Pixels.stored (t.buf b) off) ∧
      t'.ink = s.ink ∧ t'.paper = s.paper

/-- Where a cell stops instead: a glyph address that does not exist raises `ADDR_RANGE` and is never
reduced modulo 65536 (60_exceptions.md section 1); a pixel beyond the buffer, for which the spec has
no rule, is refused by name (the model's choice, log 12). -/
def Obligations.CellStopsOnMissingAddressOrPixel : Prop :=
  ∀ i s,
    (s.textMode = true → 65535 < glyphAddr (encodeByte i) s →
      exec i s = .fault (.addrRange .glyph (glyphAddr (encodeByte i) s))) ∧
    ((s.textMode = true → glyphAddr (encodeByte i) s ≤ 65535) →
      s.screenWidth * s.screenHeight < s.pixelCounter + 6 →
      ∃ off, exec i s = .refused (.pixelBeyondBuffer off))

/-- A stream code changes only its own registers, the active buffer, `pixelCounter` and the noted
reads: no counter, no sink flag, no memory, nothing of the agents' (60_exceptions.md section 3). -/
def Obligations.StreamCodesTouchOnlyTheirRegisters : Prop :=
  ∀ i s t, exec i s = .next t →
    SameBeyondStream s t ∧ t.pixelCounter = s.pixelCounter + 6 ∧
    t.buf s.activeIndex.other = s.buf s.activeIndex.other

/-! ### Memory and pixels -/

/-- `MemRead` of an address 0..65535 is the byte there; any other address faults with `ADDR_RANGE` and
is not reduced (20_memory.md section 1). -/
def Obligations.MemReadGivesTheByteOrFaults : Prop :=
  ∀ fetch (addr : Int) s,
    (0 ≤ addr → addr ≤ 65535 → memRead fetch addr s =
      .ok (s.mem.read addr.toNat, { s with busReads := s.busReads ++ [⟨fetch, addr⟩] })) ∧
    (addr < 0 ∨ 65535 < addr → memRead fetch addr s = .error (.addrRange fetch addr))

/-- 20_memory.md R48: a step outside the window reads nothing, a visible step in hires rendering
reads the stream byte, a visible step in text mode reads the stream byte and then the glyph byte. -/
def Obligations.ReadsOfOneStepInOrder : Prop :=
  ∀ s t, s.faulted = false → chipStep s = .next t →
    (inWindow s = false → t.busReads = []) ∧
    (inWindow s = true → s.textMode = false → t.busReads = [⟨.stream, streamAddr s⟩]) ∧
    (inWindow s = true → s.textMode = true → t.busReads =
      [⟨.stream, streamAddr s⟩, ⟨.glyph, glyphAddr (s.mem.read (streamAddr s).toNat) s⟩])

/-- The processor's write is seen at its address by every later read and nowhere else, and changes
nothing but memory (20_memory.md section 5); the canonical form is kept. -/
def Obligations.BusWriteChangesOneByte : Prop :=
  ∀ (a : BitVec 16) (v : Byte) s, s.mem.wf = true → ∃ t, busWrite a v s = .next t ∧
    t = { s with mem := t.mem } ∧ t.mem.wf = true ∧
    ∀ addr, t.mem.read addr = if addr = a.toNat then v else s.mem.read addr

/-- Nothing but the processor's write changes the MemoryBus, and no operation of the consumer writes a
frame buffer (20_memory.md section 5). -/
def Obligations.OnlyTheProcessorWritesTheBus : Prop :=
  (∀ op s t, (∀ a v, op ≠ .busWrite a v) → runOp op s = .next t → t.mem = s.mem) ∧
  (∀ op s t, (op = .poll ∨ ∃ n off, op = .readPixel n off) → runOp op s = .next t →
    t.buf0 = s.buf0 ∧ t.buf1 = s.buf1)

/-- 43_colour_output.md R117: EmitCell stores exactly six pixels in descending bit order at
consecutive offsets, the cell's foreground for a set bit and its background otherwise, and changes
nothing else but `pixelCounter`. -/
def Obligations.EmitCellStoresSixDotsInBitOrder : Prop :=
  ∀ screenCode cellData s, s.pixelCounter + 6 ≤ s.screenWidth * s.screenHeight → ∃ t,
    emitCell screenCode cellData s = .next t ∧
    t = { s with pixelCounter := s.pixelCounter + 6, buf0 := t.buf0, buf1 := t.buf1 } ∧
    CellStores s t (fun d =>
      if cellData.getLsbD (5 - d) then foreground screenCode s.ink s.paper
      else background screenCode s.ink s.paper)

/-! ### The raster -/

/-- 40_raster_timing.md R85: a step entered with `horizontalCounter` 0..62 adds exactly one to it
after the optional rendering, and that is its only change. -/
def Obligations.CounterAdvancesByOneWithinALine : Prop :=
  ∀ s, s.schedule = [] → s.faulted = false → s.horizontalCounter ≤ 62 →
    (inWindow s = false → step s = .next { s with
      horizontalCounter := s.horizontalCounter + 1, stepResult := some false, busReads := [] }) ∧
    (∀ u, inWindow s = true → renderCell { s with busReads := [] } = .next u →
      step s = .next { u with
        horizontalCounter := s.horizontalCounter + 1, stepResult := some false })

/-- A line wrap that does not end the frame: the counters, the line number from the new counter, the
per-line reset exactly when the new line is below 224, and nothing else (40_raster_timing.md
section 3; the indices 7 and 0 of white and black are log 4's). -/
def Obligations.LineWrapResetsLineStateBelowLine224 : Prop :=
  ∀ s, s.schedule = [] → s.faulted = false → s.horizontalCounter = 63 →
    s.verticalCounter + 1 ≠ s.totalLines →
    (s.verticalCounter + 1 < 233 → ∃ t, step s = .next t ∧ t = { s with
      horizontalCounter := 0
      verticalCounter := s.verticalCounter + 1
      windowLine := (s.verticalCounter : Int) - 8
      doubleHeight := false
      charline := (((s.verticalCounter : Int) - 8) % 8).toNat
      ink := 7#3
      paper := 0#3
      blink := false
      blinkMask := 63#6
      charset := 0#1
      charsetAddr := s.charsetBase
      textMode := if s.verticalCounter = 208 then true else s.textMode
      lineAddr := if t.textMode then 0xBB80 + ((s.verticalCounter : Int) - 8) / 8 * 40
        else 0xA000 + ((s.verticalCounter : Int) - 8) * 40
      stepResult := some false
      busReads := [] }) ∧
    (233 ≤ s.verticalCounter + 1 → step s = .next { s with
      horizontalCounter := 0
      verticalCounter := s.verticalCounter + 1
      windowLine := (s.verticalCounter : Int) - 8
      stepResult := some false
      busReads := [] })

/-- The wrap into line 200 forces text mode, and only that wrap; hires mode stays as it was; lines
200..223 are then the text rows 25, 26 and 27; a MODE code there keeps text mode
(40_raster_timing.md section 3; the last is the spec's own inference). -/
def Obligations.LineTwoHundredForcesText : Prop :=
  (∀ s, s.schedule = [] → s.faulted = false → s.horizontalCounter = 63 →
    s.verticalCounter + 1 < 233 → s.verticalCounter + 1 ≠ s.totalLines → ∃ t, step s = .next t ∧
    t.hiresMode = s.hiresMode ∧ t.charsetBase = s.charsetBase ∧
    (s.verticalCounter = 208 → t.textMode = true ∧ t.lineAddr = 0xBF68) ∧
    (s.verticalCounter ≠ 208 → t.textMode = s.textMode) ∧
    (s.textMode = true → 208 < s.verticalCounter → s.verticalCounter < 216 →
      t.lineAddr = 0xBF68) ∧
    (s.textMode = true → 216 ≤ s.verticalCounter → s.verticalCounter < 224 →
      t.lineAddr = 0xBF90) ∧
    (s.textMode = true → 224 ≤ s.verticalCounter → t.lineAddr = 0xBFB8)) ∧
  (∀ r h f x s, 200 ≤ s.windowLine → CellReady (encodeByte (.mode r h f x)) s → ∃ t,
    exec (.mode r h f x) s = .next t ∧ t.textMode = true)

/-- 40_raster_timing.md R89: in text mode eight consecutive lines share one base, 40 bytes further for
each row of eight, for negative lines too (floor division); in hires mode every line has its own 40
bytes. -/
def Obligations.LineAddrSharesARowAmongEightLines : Prop :=
  (∀ row k : Int, 0 ≤ k → k < 8 → lineAddrOf true (row * 8 + k) = 0xBB80 + row * 40) ∧
  (∀ w : Int, lineAddrOf false w = 0xA000 + w * 40) ∧
  lineAddrOf true 0 = 0xBB80 ∧ lineAddrOf true 8 = 0xBBA8 ∧ lineAddrOf true 223 = 0xBFB8 ∧
  lineAddrOf false 0 = 0xA000 ∧ lineAddrOf false 1 = 0xA028 ∧ lineAddrOf false 199 = 0xBF18 ∧
  lineAddrOf true (-1) = 0xBB58 ∧ lineAddrOf true (-8) = 0xBB58 ∧
  lineAddrOf true (-9) = 0xBB30 ∧ lineAddrOf false (-9) = 0x9E98

/-- The frame wrap: the per-frame state, the per-line reset at line -9, and the toggle; hires mode, the
line count and the charset base persist, and no buffer is touched. What 'all per-frame state' is, and
the modulus of `frameCount`, are the spec's own decisions D10 and D12 (40_raster_timing.md section 3;
log 9); the indices 7 and 0 of white and black are its general knowledge (log 4). -/
def Obligations.FrameWrapStartsTheNextFrameAndToggles : Prop :=
  ∀ s, s.schedule = [] → s.faulted = false → s.horizontalCounter = 63 →
    s.verticalCounter + 1 = s.totalLines → 233 ≤ s.totalLines →
    step s = .next { s with
      horizontalCounter := 0
      verticalCounter := 0
      windowLine := -9
      pixelCounter := 0
      frameCount := (s.frameCount + 1) % 2 ^ s.frameCountBits
      textMode := !s.hiresMode
      doubleHeight := false
      charline := 7
      ink := 7#3
      paper := 0#3
      blink := false
      blinkMask := 63#6
      charset := 0#1
      charsetAddr := s.charsetBase
      lineAddr := if s.hiresMode then 0x9E98 else 0xBB30
      activeIndex := s.activeIndex.other
      ready := true
      toggles := s.toggles + 1
      stepResult := some true
      busReads := [] }

/-- 40_raster_timing.md R92: STEP returns true exactly in the step entered in the last cycle of the
last line, which performs the frame wrap and sets `ready`, so that a POLL after it returns the
frame; from a fresh frame start whose line count stays, that is exactly the last of the
`totalLines * 64` steps. -/
def Obligations.FrameCompleteExactlyInTheLastCycle : Prop :=
  (∀ s, MachineInv s → s.schedule = [] → s.faulted = false → ∃ t, step s = .next t ∧
    (t.stepResult = some true ∨ t.stepResult = some false) ∧
    (t.stepResult = some true ↔
      s.horizontalCounter = 63 ∧ s.verticalCounter + 1 = s.totalLines) ∧
    (t.stepResult = some true ↔ t.toggles = s.toggles + 1) ∧
    (t.stepResult = some true → t.ready = true ∧ ∃ u, poll t = .next u ∧
      u.pollResult = some (some ⟨s.blockId, s.activeIndex, t.toggles⟩) ∧
      u.buf s.activeIndex = s.buf s.activeIndex)) ∧
  (∀ s, FreshFrame s →
    (∀ n < 64 * s.totalLines, ∀ t, core.run n s = .next t → t.totalLines = s.totalLines) →
    ∀ n, 1 ≤ n → n ≤ 64 * s.totalLines → ∃ t, core.run n s = .next t ∧
      (t.stepResult = some true ↔ n = 64 * s.totalLines))

/-- From a fresh frame start whose line count stays, after n steps the counters are n mod 64 and
n div 64, and after `totalLines * 64` steps a fresh frame starts with `frameCount` one higher. The
spec derives this (40_raster_timing.md section 4). -/
def Obligations.CountersHaveClosedFormInAFrame : Prop :=
  ∀ s, FreshFrame s →
    (∀ n < 64 * s.totalLines, ∀ t, core.run n s = .next t → t.totalLines = s.totalLines) →
    (∀ n < 64 * s.totalLines, ∃ t, core.run n s = .next t ∧ t.horizontalCounter = n % 64 ∧
      t.verticalCounter = n / 64 ∧ t.windowLine = ((n / 64 : Nat) : Int) - 9 ∧
      t.frameCount = s.frameCount) ∧
    ∃ t, core.run (64 * s.totalLines) s = .next t ∧ FreshFrame t ∧
      t.frameCount = (s.frameCount + 1) % 2 ^ s.frameCountBits

/-- After a MODE code in mid-line the next cell is fetched from the new line base plus its own column
(the spec derives this: 42_control_codes.md section 3). -/
def Obligations.ModeInMidLineKeepsTheColumn : Prop :=
  ∀ r h f x s, MachineInv s → s.schedule = [] → s.faulted = false → inWindow s = true →
    s.mem.read (streamAddr s).toNat = encodeByte (.mode r h f x) → ∃ t, step s = .next t ∧
      t.charline = s.charline ∧ t.ink = s.ink ∧ t.paper = s.paper ∧
      t.blinkMask = s.blinkMask ∧ t.charset = s.charset ∧
      streamAddr t =
        (if !h || decide (200 ≤ s.windowLine) then 0xBB80 + s.windowLine / 8 * 40
          else 0xA000 + s.windowLine * 40) + ((s.horizontalCounter : Int) + 1 - 12)

/-! ### Invariants -/

/-- The reset state meets the invariants. -/
def Obligations.ResetMeetsTheInvariant : Prop := MachineInv State.reset

/-- Every step keeps the invariants of 10_state.md section 9 (the spec marks them its own inferences;
clause (g) as log 10 says, with the values that `charline` and `lineAddr` keep from line 224 on) and
the parameters' domains. -/
def Obligations.StepKeepsTheRasterInvariant : Prop :=
  ∀ s t, RasterInv s → ParamInv s → step s = .next t → RasterInv t ∧ ParamInv t

/-- Every step keeps the frame sink's invariant: the roles alternate with the toggles, the active buffer
has every pixel below `pixelCounter` stored, a buffer once completed stays fully stored, a frame is
ready only after a toggle, and every reference a POLL handed out names, inside its validity window, a
buffer with every offset stored to (the spec derives this: 44_frame_handoff.md sections 1 and 4). That
those pixels are one frame's is CompletedFrameHoldsItsCells and PolledPixelsAreTheCompletedFrame. -/
def Obligations.StepKeepsTheSinkInvariant : Prop :=
  ∀ s t, MachineInv s → step s = .next t → SinkInv t ∧ HandedInv t

/-- Every step keeps the memory in its canonical form. -/
def Obligations.StepKeepsMemoryCanonical : Prop :=
  ∀ s t, s.mem.wf = true → step s = .next t → t.mem.wf = true

/-- No STEP of a running block stops, whatever the memory holds: `ADDR_RANGE` is unreachable and no
byte is illegal (the spec derives this: 60_exceptions.md section 1). -/
def Obligations.NoStepOfARunningBlockStops : Prop :=
  ∀ s, MachineInv s → ∃ t, chipStep s = .next t

/-- Every address a STEP reads lies in 0x9800..0xBFDF (the spec derives this: 20_memory.md
section 2). -/
def Obligations.EveryReadLiesInTheMappedRegions : Prop :=
  ∀ s t, MachineInv s → chipStep s = .next t →
    ∀ read ∈ t.busReads, 0x9800 ≤ read.address ∧ read.address ≤ 0xBFDF

/-- The cell of visible line w and column k is stored at offsets w*240 + k*6 to w*240 + k*6 + 5 of the
active buffer, each dot in the colour its stream byte gives it, and a step changes no other pixel (the
spec derives the place: 20_memory.md section 4, 40_raster_timing.md section 4; the colours rest on its
decisions D8 and D9, log 9). -/
def Obligations.CellLandsAtItsRasterOffset : Prop :=
  ∀ s (w k : Nat), MachineInv s → s.faulted = false → s.windowLine = (w : Int) →
    s.horizontalCounter = 12 + k → w < 224 → k < 40 →
    s.pixelCounter = w * 240 + k * 6 ∧ ∃ t, chipStep s = .next t ∧
    CellStores s t (cellDotColour s t) ∧
    (∀ r c, decodeByte (streamByte s) = .ink r c → t.ink = c) ∧
    ((∀ r c, decodeByte (streamByte s) ≠ .ink r c) → t.ink = s.ink) ∧
    (∀ r c, decodeByte (streamByte s) = .paper r c → t.paper = c) ∧
    ((∀ r c, decodeByte (streamByte s) ≠ .paper r c) → t.paper = s.paper)

/-- A pixel once drawn stays as it is until its frame is complete: over any number of steps of a block
with no other operation pending that make no toggle (44_frame_handoff.md section 4). -/
def Obligations.DrawnPixelsStayUntilTheToggle : Prop :=
  ∀ n s t, s.schedule = [] → core.run n s = .next t → t.toggles = s.toggles →
    ∀ off < s.pixelCounter, Pixels.stored (t.buf s.activeIndex) off =
      Pixels.stored (s.buf s.activeIndex) off

/-! ### The frame sink and the host operations -/

/-- The producer never writes the buffer that is not active, the one `ready` describes (the spec
derives this: 44_frame_handoff.md section 4). -/
def Obligations.StepNeverWritesTheOtherBuffer : Prop :=
  ∀ s t, chipStep s = .next t → t.buf s.activeIndex.other = s.buf s.activeIndex.other ∧
    ((t.activeIndex = s.activeIndex ∧ t.toggles = s.toggles) ∨
      (t.activeIndex = s.activeIndex.other ∧ t.toggles = s.toggles + 1 ∧ t.ready = true ∧
        t.buf s.activeIndex = s.buf s.activeIndex))

/-- 44_frame_handoff.md R128: STEP behaves identically whether or not frames are polled: two states
that differ only on the consumer's side step alike, and no operation of the consumer changes what
the producer sees; POLL never blocks. -/
def Obligations.ProducerIsIndependentOfTheConsumer : Prop :=
  (∀ s s', producerView s = producerView s' →
    mapNext producerView (chipStep s) = mapNext producerView (chipStep s')) ∧
  (∀ op s t, (op = .poll ∨ op = .dump ∨ ∃ n off, op = .readPixel n off) → runOp op s = .next t →
    producerView t = producerView s) ∧
  (∀ s, ∃ t, poll s = .next t)

/-- POLL returns the buffer that is not active and clears `ready` when it is set, else returns none; it
writes nothing else; a second POLL returns none; before the first toggle POLL returns none; the buffer
it returns has every offset of the frame stored to; of a faulted block it has no effect and no result
(44_frame_handoff.md section 2). The one flag and the faulted condition are the spec's own decisions
D16 and D18 (log 9), the stamps of the reference the model's (log 13). -/
def Obligations.PollReturnsTheCompletedBufferOnce : Prop :=
  (∀ s, s.faulted = false → s.ready = true → ∃ t u, poll s = .next t ∧
    t = { s with
      ready := false
      pollResult := some (some ⟨s.blockId, s.activeIndex.other, s.toggles⟩)
      handed := s.handed ++ [⟨s.blockId, s.activeIndex.other, s.toggles⟩] } ∧
    s.activeIndex.other ≠ s.activeIndex ∧
    poll t = .next u ∧ u.pollResult = some none) ∧
  (∀ s, s.faulted = false → s.ready = false → poll s = .next { s with pollResult := some none }) ∧
  (∀ s, s.faulted = true → poll s = .next { s with pollResult := none }) ∧
  (∀ s, SinkInv s → s.faulted = false → s.toggles = 0 →
    poll s = .next { s with pollResult := some none }) ∧
  (∀ s, SinkInv s → s.ready = true → FullyStored (s.buf s.activeIndex.other))

/-- 44_frame_handoff.md R127: when a frame completes the newest frame wins, whether or not the frame
before it was polled: the result is the same state, the completed buffer is the one POLL returns,
once, and the unpolled buffer becomes the active one. -/
def Obligations.LatestFrameWins : Prop :=
  ∀ s, MachineInv s → s.schedule = [] → s.faulted = false → s.horizontalCounter = 63 →
    s.verticalCounter + 1 = s.totalLines →
    step { s with ready := true } = step { s with ready := false } ∧
    ∃ t u v, step s = .next t ∧ t.activeIndex = s.activeIndex.other ∧ t.ready = true ∧
      t.buf0 = s.buf0 ∧ t.buf1 = s.buf1 ∧
      poll t = .next u ∧ u.pollResult = some (some ⟨s.blockId, s.activeIndex, t.toggles⟩) ∧
      poll u = .next v ∧ v.pollResult = some none

/-- 44_frame_handoff.md R132: DUMP returns the three counters and writes nothing; it never faults. -/
def Obligations.DumpReturnsTheCounters : Prop :=
  (∀ s, s.faulted = false → dump s = .next { s with
    dumpResult := some ⟨s.frameCount, s.horizontalCounter, s.verticalCounter⟩ }) ∧
  (∀ s, ∃ t, dump s = .next t ∧ t = { s with dumpResult := t.dumpResult })

/-- A polled reference is inside its validity window from its POLL on; no step that keeps it there
changes any pixel of the frame it names; a read inside the window gives the pixel stored, never an
unspecified one; after the window any value, which is the free value of log 6. The window is the spec's
own decision D23 (44_frame_handoff.md section 2); the stamps that decide it are log 13's. That a read
goes on when the block is faulted is the model's choice (log 22). -/
def Obligations.PolledPixelsAreTheCompletedFrame : Prop :=
  (∀ s, MachineInv s → s.faulted = false → s.ready = true → ∃ t, poll s = .next t ∧
    t.pollResult = some (some s.completedRef) ∧ s.completedRef ∈ t.handed ∧
    t.sinkOf s.blockId = some t.sinkView ∧ t.sinkView.valid s.completedRef = true ∧
    t.buf s.completedRef.buffer = s.buf s.activeIndex.other) ∧
  (∀ s t ref v, MachineInv s → step s = .next t → ref ∈ s.handed →
    s.sinkOf ref.block = some v → v.valid ref = true → ∃ v', t.sinkOf ref.block = some v' ∧
    (v'.valid ref = true → ∀ off < 53760,
      Pixels.stored (v'.buf ref.buffer) off = Pixels.stored (v.buf ref.buffer) off)) ∧
  ∀ s n off ref v, MachineInv s → s.handed[n]? = some ref → s.sinkOf ref.block = some v →
    (v.valid ref = true → off < 53760 → ∃ c, Pixels.stored (v.buf ref.buffer) off = some c ∧
      readPixel n off s = .next { s with readResult := some c }) ∧
    (v.valid ref = false → off < v.size → readPixel n off s = .next { s with
      readResult := some (Config.tornPixel s.freeReads), freeReads := s.freeReads + 1 }) ∧
    (v.size ≤ off → readPixel n off s = .refused (.readBeyondBuffer off))

/-- RESET checks the profile, then the dimensions, then their product, and otherwise gives a block in
the reset state with the profile's line count (an omitted profile is PAL312) and two buffers of the
given size (70_reset_and_hazards.md section 1). The order of the checks, the least product and most of
the reset state are the spec's own decisions D18, D14 and D13 (log 9). -/
def Obligations.ResetValidatesThenBuildsABlock : Prop :=
  ∀ s (w h : Int),
    (∀ code, resetBlock (.other code) w h s = .fault (.configProfile code)) ∧
    (∀ p, (∀ code, p ≠ .other code) → (w ≤ 0 ∨ h ≤ 0 ∨ w * h < 53760) →
      resetBlock p w h s = .fault (.configGeometry w h)) ∧
    (∀ p, (∀ code, p ≠ .other code) → 0 < w → 0 < h → 53760 ≤ w * h → ∃ t,
      resetBlock p w h s = .next t ∧ ResetValues t (decide (p ≠ .hz60_264)) ∧
      (t.screenWidth : Int) = w ∧ (t.screenHeight : Int) = h ∧
      (t.bufferSize : Int) = w * h)

/-- The machine after reset: the table of 10_state.md section 10 with the default profile and geometry.
All but the line count are the spec's own decision D13; the geometry is the default of log 8. -/
def Obligations.ResetStateHoldsTheResetTable : Prop :=
  ResetValues State.reset true ∧ State.reset.screenWidth = 240 ∧ State.reset.screenHeight = 224 ∧
  State.reset.frameCountBits = 32

/-- A RESET of a running machine makes a new, independent block, and the sinks of older blocks are never
written again by any operation (the spec's own decision: 70_reset_and_hazards.md section 1; log 14). -/
def Obligations.RetiredSinksAreNeverWritten : Prop :=
  (∀ p w h s t, HandedInv s → resetBlock p w h s = .next t →
    t.sinkOf s.blockId = some s.sinkView ∧ t.handed = s.handed ∧ t.mem = s.mem) ∧
  (∀ op s u block, HandedInv s → block < s.blockId → runOp op s = .next u →
    u.sinkOf block = s.sinkOf block)

/-- After `ADDR_RANGE` the block is the state the step was entered with, but faulted, and from then on
STEP, POLL and DUMP have no effect and no result. The faulted condition is the spec's own decision
D18 (60_exceptions.md section 1; log 11). -/
def Obligations.FaultedBlockDoesNothing : Prop :=
  (∀ s f, chipStep s = .fault f → (∃ fetch addr, f = .addrRange fetch addr ∧
      (addr < 0 ∨ 65535 < addr)) ∧
    blockAfterFault f s = some { s with faulted := true, stepResult := none }) ∧
  (∀ s, s.faulted = true → chipStep s = .next { s with stepResult := none, busReads := [] } ∧
    poll s = .next { s with pollResult := none } ∧ dump s = .next { s with dumpResult := none })

/-! ### What a polled frame is -/

/-- The validity window of a reference of the running block ends exactly with the first visible cell
after the toggle that follows its POLL: a STEP keeps a reference inside its window unless it draws a
cell one toggle after the POLL, no STEP reopens a window, and no other operation moves its end. The
window is the spec's own decision D23 (44_frame_handoff.md section 2; log 13). -/
def Obligations.ValidityWindowEndsAtTheFirstCellAfterTheNextToggle : Prop :=
  ∀ s ref, MachineInv s → ref ∈ s.handed → ref.block = s.blockId →
    (∀ t, s.faulted = false → chipStep s = .next t → s.sinkView.valid ref = true →
      (t.sinkView.valid ref = false ↔ inWindow s = true ∧ s.toggles = ref.toggle + 1)) ∧
    (∀ t, chipStep s = .next t → s.sinkView.valid ref = false → t.sinkView.valid ref = false) ∧
    (∀ op t, op ≠ .step → runOp op s = .next t → ∃ v, t.sinkOf ref.block = some v ∧
      v.valid ref = s.sinkView.valid ref)

/-- From a fresh frame start every cell of the window is entered in its own step of that frame, whatever
codes the frame fetches; and the six pixels of a cell, once drawn, stay exactly what its stream byte
gave, over the rest of the frame, its toggle and the whole frame after it, until the first cell after
the next toggle. So the pixels that a POLL returns are those of one frame. It is said of runs with no
other operation pending. The spec derives it (44_frame_handoff.md sections 1 and 4); the end of the
window is its own decision D23, the colours rest on D8 and D9 (log 9). -/
def Obligations.CompletedFrameHoldsItsCells : Prop :=
  (∀ s (w k : Nat), FreshFrame s → w < 224 → k < 40 → ∃ u : State,
    core.run (64 * (w + 9) + 12 + k) s = .next u ∧ MachineInv u ∧ u.schedule = [] ∧
    u.faulted = false ∧ u.windowLine = (w : Int) ∧ u.horizontalCounter = 12 + k ∧
    u.activeIndex = s.activeIndex ∧ u.toggles = s.toggles ∧ u.frameCount = s.frameCount) ∧
  ∀ u (w k : Nat), MachineInv u → u.schedule = [] → u.faulted = false → w < 224 → k < 40 →
    u.windowLine = (w : Int) → u.horizontalCounter = 12 + k → ∃ t, step u = .next t ∧
    ∀ n (e : State), core.run n t = .next e →
      (e.toggles ≤ u.toggles + 1 ∨ (e.toggles = u.toggles + 2 ∧ e.pixelCounter = 0)) →
      ∀ d < 6, Pixels.stored (e.buf u.activeIndex) (w * 240 + k * 6 + d) =
        some (cellDotColour u t d)

/-- No frame is exposed before all its cells are drawn: a STEP that toggles finds `pixelCounter` at
53760 and sets it to 0, and between toggles it moves only with a cell, by the six pixels that cell
stores from it on, so all 53760 stores of that very frame have been made; a STEP that does not toggle
neither sets `ready` nor changes the buffer that `ready` describes (the spec derives this:
44_frame_handoff.md sections 1 and 4; the colours rest on its decisions D8 and D9, log 9). -/
def Obligations.NoPartialFrameIsExposed : Prop :=
  (∀ s t, MachineInv s → s.faulted = false → chipStep s = .next t → t.toggles ≠ s.toggles →
    s.pixelCounter = 53760 ∧ t.pixelCounter = 0 ∧
    t.buf t.activeIndex.other = s.buf s.activeIndex) ∧
  (∀ s t, chipStep s = .next t → t.toggles = s.toggles →
    t.ready = s.ready ∧ t.activeIndex = s.activeIndex ∧
    t.buf t.activeIndex.other = s.buf s.activeIndex.other) ∧
  ∀ s t, MachineInv s → s.faulted = false → chipStep s = .next t →
    t.toggles = s.toggles → t.pixelCounter ≠ s.pixelCounter →
    t.pixelCounter = s.pixelCounter + 6 ∧ CellStores s t (cellDotColour s t)
end

