-- ==== Sys2Proof/Laws/State.lean ====
section
/-! SUPPORT. One lemma per field of the state for each named update, so that no proof unfolds a record
update. -/

namespace Sys2Proof.Machine

/-! ### `inkAction` -/

@[simp] theorem inkAction_horizontalCounter (c : Colour) (s : State) : (inkAction c s).horizontalCounter = s.horizontalCounter := rfl
@[simp] theorem inkAction_verticalCounter (c : Colour) (s : State) : (inkAction c s).verticalCounter = s.verticalCounter := rfl
@[simp] theorem inkAction_windowLine (c : Colour) (s : State) : (inkAction c s).windowLine = s.windowLine := rfl
@[simp] theorem inkAction_lineAddr (c : Colour) (s : State) : (inkAction c s).lineAddr = s.lineAddr := rfl
@[simp] theorem inkAction_pixelCounter (c : Colour) (s : State) : (inkAction c s).pixelCounter = s.pixelCounter := rfl
@[simp] theorem inkAction_palFreq (c : Colour) (s : State) : (inkAction c s).palFreq = s.palFreq := rfl
@[simp] theorem inkAction_totalLines (c : Colour) (s : State) : (inkAction c s).totalLines = s.totalLines := rfl
@[simp] theorem inkAction_hiresMode (c : Colour) (s : State) : (inkAction c s).hiresMode = s.hiresMode := rfl
@[simp] theorem inkAction_textMode (c : Colour) (s : State) : (inkAction c s).textMode = s.textMode := rfl
@[simp] theorem inkAction_charset (c : Colour) (s : State) : (inkAction c s).charset = s.charset := rfl
@[simp] theorem inkAction_charsetBase (c : Colour) (s : State) : (inkAction c s).charsetBase = s.charsetBase := rfl
@[simp] theorem inkAction_charsetAddr (c : Colour) (s : State) : (inkAction c s).charsetAddr = s.charsetAddr := rfl
@[simp] theorem inkAction_charline (c : Colour) (s : State) : (inkAction c s).charline = s.charline := rfl
@[simp] theorem inkAction_doubleHeight (c : Colour) (s : State) : (inkAction c s).doubleHeight = s.doubleHeight := rfl
@[simp] theorem inkAction_blink (c : Colour) (s : State) : (inkAction c s).blink = s.blink := rfl
@[simp] theorem inkAction_blinkMask (c : Colour) (s : State) : (inkAction c s).blinkMask = s.blinkMask := rfl
@[simp] theorem inkAction_ink (c : Colour) (s : State) : (inkAction c s).ink = c := rfl
@[simp] theorem inkAction_paper (c : Colour) (s : State) : (inkAction c s).paper = s.paper := rfl
@[simp] theorem inkAction_frameCount (c : Colour) (s : State) : (inkAction c s).frameCount = s.frameCount := rfl
@[simp] theorem inkAction_buf0 (c : Colour) (s : State) : (inkAction c s).buf0 = s.buf0 := rfl
@[simp] theorem inkAction_buf1 (c : Colour) (s : State) : (inkAction c s).buf1 = s.buf1 := rfl
@[simp] theorem inkAction_activeIndex (c : Colour) (s : State) : (inkAction c s).activeIndex = s.activeIndex := rfl
@[simp] theorem inkAction_ready (c : Colour) (s : State) : (inkAction c s).ready = s.ready := rfl
@[simp] theorem inkAction_faulted (c : Colour) (s : State) : (inkAction c s).faulted = s.faulted := rfl
@[simp] theorem inkAction_screenWidth (c : Colour) (s : State) : (inkAction c s).screenWidth = s.screenWidth := rfl
@[simp] theorem inkAction_screenHeight (c : Colour) (s : State) : (inkAction c s).screenHeight = s.screenHeight := rfl
@[simp] theorem inkAction_frameCountBits (c : Colour) (s : State) : (inkAction c s).frameCountBits = s.frameCountBits := rfl
@[simp] theorem inkAction_mem (c : Colour) (s : State) : (inkAction c s).mem = s.mem := rfl
@[simp] theorem inkAction_schedule (c : Colour) (s : State) : (inkAction c s).schedule = s.schedule := rfl
@[simp] theorem inkAction_stepResult (c : Colour) (s : State) : (inkAction c s).stepResult = s.stepResult := rfl
@[simp] theorem inkAction_pollResult (c : Colour) (s : State) : (inkAction c s).pollResult = s.pollResult := rfl
@[simp] theorem inkAction_dumpResult (c : Colour) (s : State) : (inkAction c s).dumpResult = s.dumpResult := rfl
@[simp] theorem inkAction_readResult (c : Colour) (s : State) : (inkAction c s).readResult = s.readResult := rfl
@[simp] theorem inkAction_busReads (c : Colour) (s : State) : (inkAction c s).busReads = s.busReads := rfl
@[simp] theorem inkAction_blockId (c : Colour) (s : State) : (inkAction c s).blockId = s.blockId := rfl
@[simp] theorem inkAction_toggles (c : Colour) (s : State) : (inkAction c s).toggles = s.toggles := rfl
@[simp] theorem inkAction_handed (c : Colour) (s : State) : (inkAction c s).handed = s.handed := rfl
@[simp] theorem inkAction_retired (c : Colour) (s : State) : (inkAction c s).retired = s.retired := rfl
@[simp] theorem inkAction_freeReads (c : Colour) (s : State) : (inkAction c s).freeReads = s.freeReads := rfl

/-! ### `paperAction` -/

@[simp] theorem paperAction_horizontalCounter (c : Colour) (s : State) : (paperAction c s).horizontalCounter = s.horizontalCounter := rfl
@[simp] theorem paperAction_verticalCounter (c : Colour) (s : State) : (paperAction c s).verticalCounter = s.verticalCounter := rfl
@[simp] theorem paperAction_windowLine (c : Colour) (s : State) : (paperAction c s).windowLine = s.windowLine := rfl
@[simp] theorem paperAction_lineAddr (c : Colour) (s : State) : (paperAction c s).lineAddr = s.lineAddr := rfl
@[simp] theorem paperAction_pixelCounter (c : Colour) (s : State) : (paperAction c s).pixelCounter = s.pixelCounter := rfl
@[simp] theorem paperAction_palFreq (c : Colour) (s : State) : (paperAction c s).palFreq = s.palFreq := rfl
@[simp] theorem paperAction_totalLines (c : Colour) (s : State) : (paperAction c s).totalLines = s.totalLines := rfl
@[simp] theorem paperAction_hiresMode (c : Colour) (s : State) : (paperAction c s).hiresMode = s.hiresMode := rfl
@[simp] theorem paperAction_textMode (c : Colour) (s : State) : (paperAction c s).textMode = s.textMode := rfl
@[simp] theorem paperAction_charset (c : Colour) (s : State) : (paperAction c s).charset = s.charset := rfl
@[simp] theorem paperAction_charsetBase (c : Colour) (s : State) : (paperAction c s).charsetBase = s.charsetBase := rfl
@[simp] theorem paperAction_charsetAddr (c : Colour) (s : State) : (paperAction c s).charsetAddr = s.charsetAddr := rfl
@[simp] theorem paperAction_charline (c : Colour) (s : State) : (paperAction c s).charline = s.charline := rfl
@[simp] theorem paperAction_doubleHeight (c : Colour) (s : State) : (paperAction c s).doubleHeight = s.doubleHeight := rfl
@[simp] theorem paperAction_blink (c : Colour) (s : State) : (paperAction c s).blink = s.blink := rfl
@[simp] theorem paperAction_blinkMask (c : Colour) (s : State) : (paperAction c s).blinkMask = s.blinkMask := rfl
@[simp] theorem paperAction_ink (c : Colour) (s : State) : (paperAction c s).ink = s.ink := rfl
@[simp] theorem paperAction_paper (c : Colour) (s : State) : (paperAction c s).paper = c := rfl
@[simp] theorem paperAction_frameCount (c : Colour) (s : State) : (paperAction c s).frameCount = s.frameCount := rfl
@[simp] theorem paperAction_buf0 (c : Colour) (s : State) : (paperAction c s).buf0 = s.buf0 := rfl
@[simp] theorem paperAction_buf1 (c : Colour) (s : State) : (paperAction c s).buf1 = s.buf1 := rfl
@[simp] theorem paperAction_activeIndex (c : Colour) (s : State) : (paperAction c s).activeIndex = s.activeIndex := rfl
@[simp] theorem paperAction_ready (c : Colour) (s : State) : (paperAction c s).ready = s.ready := rfl
@[simp] theorem paperAction_faulted (c : Colour) (s : State) : (paperAction c s).faulted = s.faulted := rfl
@[simp] theorem paperAction_screenWidth (c : Colour) (s : State) : (paperAction c s).screenWidth = s.screenWidth := rfl
@[simp] theorem paperAction_screenHeight (c : Colour) (s : State) : (paperAction c s).screenHeight = s.screenHeight := rfl
@[simp] theorem paperAction_frameCountBits (c : Colour) (s : State) : (paperAction c s).frameCountBits = s.frameCountBits := rfl
@[simp] theorem paperAction_mem (c : Colour) (s : State) : (paperAction c s).mem = s.mem := rfl
@[simp] theorem paperAction_schedule (c : Colour) (s : State) : (paperAction c s).schedule = s.schedule := rfl
@[simp] theorem paperAction_stepResult (c : Colour) (s : State) : (paperAction c s).stepResult = s.stepResult := rfl
@[simp] theorem paperAction_pollResult (c : Colour) (s : State) : (paperAction c s).pollResult = s.pollResult := rfl
@[simp] theorem paperAction_dumpResult (c : Colour) (s : State) : (paperAction c s).dumpResult = s.dumpResult := rfl
@[simp] theorem paperAction_readResult (c : Colour) (s : State) : (paperAction c s).readResult = s.readResult := rfl
@[simp] theorem paperAction_busReads (c : Colour) (s : State) : (paperAction c s).busReads = s.busReads := rfl
@[simp] theorem paperAction_blockId (c : Colour) (s : State) : (paperAction c s).blockId = s.blockId := rfl
@[simp] theorem paperAction_toggles (c : Colour) (s : State) : (paperAction c s).toggles = s.toggles := rfl
@[simp] theorem paperAction_handed (c : Colour) (s : State) : (paperAction c s).handed = s.handed := rfl
@[simp] theorem paperAction_retired (c : Colour) (s : State) : (paperAction c s).retired = s.retired := rfl
@[simp] theorem paperAction_freeReads (c : Colour) (s : State) : (paperAction c s).freeReads = s.freeReads := rfl

/-! ### `attrAction` -/

@[simp] theorem attrAction_horizontalCounter (b d a : Bool) (s : State) : (attrAction b d a s).horizontalCounter = s.horizontalCounter := rfl
@[simp] theorem attrAction_verticalCounter (b d a : Bool) (s : State) : (attrAction b d a s).verticalCounter = s.verticalCounter := rfl
@[simp] theorem attrAction_windowLine (b d a : Bool) (s : State) : (attrAction b d a s).windowLine = s.windowLine := rfl
@[simp] theorem attrAction_lineAddr (b d a : Bool) (s : State) : (attrAction b d a s).lineAddr = s.lineAddr := rfl
@[simp] theorem attrAction_pixelCounter (b d a : Bool) (s : State) : (attrAction b d a s).pixelCounter = s.pixelCounter := rfl
@[simp] theorem attrAction_palFreq (b d a : Bool) (s : State) : (attrAction b d a s).palFreq = s.palFreq := rfl
@[simp] theorem attrAction_totalLines (b d a : Bool) (s : State) : (attrAction b d a s).totalLines = s.totalLines := rfl
@[simp] theorem attrAction_hiresMode (b d a : Bool) (s : State) : (attrAction b d a s).hiresMode = s.hiresMode := rfl
@[simp] theorem attrAction_textMode (b d a : Bool) (s : State) : (attrAction b d a s).textMode = s.textMode := rfl
@[simp] theorem attrAction_charset (b d a : Bool) (s : State) : (attrAction b d a s).charset = BitVec.ofBool a := rfl
@[simp] theorem attrAction_charsetBase (b d a : Bool) (s : State) : (attrAction b d a s).charsetBase = s.charsetBase := rfl
@[simp] theorem attrAction_charsetAddr (b d a : Bool) (s : State) : (attrAction b d a s).charsetAddr = charsetAddrOf s.charsetBase (BitVec.ofBool a) := rfl
@[simp] theorem attrAction_charline (b d a : Bool) (s : State) : (attrAction b d a s).charline = (if d then lineAnd15Half s.windowLine else lineAnd7 s.windowLine) := rfl
@[simp] theorem attrAction_doubleHeight (b d a : Bool) (s : State) : (attrAction b d a s).doubleHeight = d := rfl
@[simp] theorem attrAction_blink (b d a : Bool) (s : State) : (attrAction b d a s).blink = b := rfl
@[simp] theorem attrAction_blinkMask (b d a : Bool) (s : State) : (attrAction b d a s).blinkMask = blinkMaskOf b s.frameCount := rfl
@[simp] theorem attrAction_ink (b d a : Bool) (s : State) : (attrAction b d a s).ink = s.ink := rfl
@[simp] theorem attrAction_paper (b d a : Bool) (s : State) : (attrAction b d a s).paper = s.paper := rfl
@[simp] theorem attrAction_frameCount (b d a : Bool) (s : State) : (attrAction b d a s).frameCount = s.frameCount := rfl
@[simp] theorem attrAction_buf0 (b d a : Bool) (s : State) : (attrAction b d a s).buf0 = s.buf0 := rfl
@[simp] theorem attrAction_buf1 (b d a : Bool) (s : State) : (attrAction b d a s).buf1 = s.buf1 := rfl
@[simp] theorem attrAction_activeIndex (b d a : Bool) (s : State) : (attrAction b d a s).activeIndex = s.activeIndex := rfl
@[simp] theorem attrAction_ready (b d a : Bool) (s : State) : (attrAction b d a s).ready = s.ready := rfl
@[simp] theorem attrAction_faulted (b d a : Bool) (s : State) : (attrAction b d a s).faulted = s.faulted := rfl
@[simp] theorem attrAction_screenWidth (b d a : Bool) (s : State) : (attrAction b d a s).screenWidth = s.screenWidth := rfl
@[simp] theorem attrAction_screenHeight (b d a : Bool) (s : State) : (attrAction b d a s).screenHeight = s.screenHeight := rfl
@[simp] theorem attrAction_frameCountBits (b d a : Bool) (s : State) : (attrAction b d a s).frameCountBits = s.frameCountBits := rfl
@[simp] theorem attrAction_mem (b d a : Bool) (s : State) : (attrAction b d a s).mem = s.mem := rfl
@[simp] theorem attrAction_schedule (b d a : Bool) (s : State) : (attrAction b d a s).schedule = s.schedule := rfl
@[simp] theorem attrAction_stepResult (b d a : Bool) (s : State) : (attrAction b d a s).stepResult = s.stepResult := rfl
@[simp] theorem attrAction_pollResult (b d a : Bool) (s : State) : (attrAction b d a s).pollResult = s.pollResult := rfl
@[simp] theorem attrAction_dumpResult (b d a : Bool) (s : State) : (attrAction b d a s).dumpResult = s.dumpResult := rfl
@[simp] theorem attrAction_readResult (b d a : Bool) (s : State) : (attrAction b d a s).readResult = s.readResult := rfl
@[simp] theorem attrAction_busReads (b d a : Bool) (s : State) : (attrAction b d a s).busReads = s.busReads := rfl
@[simp] theorem attrAction_blockId (b d a : Bool) (s : State) : (attrAction b d a s).blockId = s.blockId := rfl
@[simp] theorem attrAction_toggles (b d a : Bool) (s : State) : (attrAction b d a s).toggles = s.toggles := rfl
@[simp] theorem attrAction_handed (b d a : Bool) (s : State) : (attrAction b d a s).handed = s.handed := rfl
@[simp] theorem attrAction_retired (b d a : Bool) (s : State) : (attrAction b d a s).retired = s.retired := rfl
@[simp] theorem attrAction_freeReads (b d a : Bool) (s : State) : (attrAction b d a s).freeReads = s.freeReads := rfl

/-! ### `modeAction` -/

@[simp] theorem modeAction_horizontalCounter (h f : Bool) (s : State) : (modeAction h f s).horizontalCounter = s.horizontalCounter := rfl
@[simp] theorem modeAction_verticalCounter (h f : Bool) (s : State) : (modeAction h f s).verticalCounter = s.verticalCounter := rfl
@[simp] theorem modeAction_windowLine (h f : Bool) (s : State) : (modeAction h f s).windowLine = s.windowLine := rfl
@[simp] theorem modeAction_lineAddr (h f : Bool) (s : State) : (modeAction h f s).lineAddr = lineAddrOf (textModeOf h s.windowLine) s.windowLine := rfl
@[simp] theorem modeAction_pixelCounter (h f : Bool) (s : State) : (modeAction h f s).pixelCounter = s.pixelCounter := rfl
@[simp] theorem modeAction_palFreq (h f : Bool) (s : State) : (modeAction h f s).palFreq = f := rfl
@[simp] theorem modeAction_totalLines (h f : Bool) (s : State) : (modeAction h f s).totalLines = totalLinesOf f := rfl
@[simp] theorem modeAction_hiresMode (h f : Bool) (s : State) : (modeAction h f s).hiresMode = h := rfl
@[simp] theorem modeAction_textMode (h f : Bool) (s : State) : (modeAction h f s).textMode = textModeOf h s.windowLine := rfl
@[simp] theorem modeAction_charset (h f : Bool) (s : State) : (modeAction h f s).charset = s.charset := rfl
@[simp] theorem modeAction_charsetBase (h f : Bool) (s : State) : (modeAction h f s).charsetBase = charsetBaseOf h := rfl
@[simp] theorem modeAction_charsetAddr (h f : Bool) (s : State) : (modeAction h f s).charsetAddr = charsetAddrOf (charsetBaseOf h) s.charset := rfl
@[simp] theorem modeAction_charline (h f : Bool) (s : State) : (modeAction h f s).charline = s.charline := rfl
@[simp] theorem modeAction_doubleHeight (h f : Bool) (s : State) : (modeAction h f s).doubleHeight = s.doubleHeight := rfl
@[simp] theorem modeAction_blink (h f : Bool) (s : State) : (modeAction h f s).blink = s.blink := rfl
@[simp] theorem modeAction_blinkMask (h f : Bool) (s : State) : (modeAction h f s).blinkMask = s.blinkMask := rfl
@[simp] theorem modeAction_ink (h f : Bool) (s : State) : (modeAction h f s).ink = s.ink := rfl
@[simp] theorem modeAction_paper (h f : Bool) (s : State) : (modeAction h f s).paper = s.paper := rfl
@[simp] theorem modeAction_frameCount (h f : Bool) (s : State) : (modeAction h f s).frameCount = s.frameCount := rfl
@[simp] theorem modeAction_buf0 (h f : Bool) (s : State) : (modeAction h f s).buf0 = s.buf0 := rfl
@[simp] theorem modeAction_buf1 (h f : Bool) (s : State) : (modeAction h f s).buf1 = s.buf1 := rfl
@[simp] theorem modeAction_activeIndex (h f : Bool) (s : State) : (modeAction h f s).activeIndex = s.activeIndex := rfl
@[simp] theorem modeAction_ready (h f : Bool) (s : State) : (modeAction h f s).ready = s.ready := rfl
@[simp] theorem modeAction_faulted (h f : Bool) (s : State) : (modeAction h f s).faulted = s.faulted := rfl
@[simp] theorem modeAction_screenWidth (h f : Bool) (s : State) : (modeAction h f s).screenWidth = s.screenWidth := rfl
@[simp] theorem modeAction_screenHeight (h f : Bool) (s : State) : (modeAction h f s).screenHeight = s.screenHeight := rfl
@[simp] theorem modeAction_frameCountBits (h f : Bool) (s : State) : (modeAction h f s).frameCountBits = s.frameCountBits := rfl
@[simp] theorem modeAction_mem (h f : Bool) (s : State) : (modeAction h f s).mem = s.mem := rfl
@[simp] theorem modeAction_schedule (h f : Bool) (s : State) : (modeAction h f s).schedule = s.schedule := rfl
@[simp] theorem modeAction_stepResult (h f : Bool) (s : State) : (modeAction h f s).stepResult = s.stepResult := rfl
@[simp] theorem modeAction_pollResult (h f : Bool) (s : State) : (modeAction h f s).pollResult = s.pollResult := rfl
@[simp] theorem modeAction_dumpResult (h f : Bool) (s : State) : (modeAction h f s).dumpResult = s.dumpResult := rfl
@[simp] theorem modeAction_readResult (h f : Bool) (s : State) : (modeAction h f s).readResult = s.readResult := rfl
@[simp] theorem modeAction_busReads (h f : Bool) (s : State) : (modeAction h f s).busReads = s.busReads := rfl
@[simp] theorem modeAction_blockId (h f : Bool) (s : State) : (modeAction h f s).blockId = s.blockId := rfl
@[simp] theorem modeAction_toggles (h f : Bool) (s : State) : (modeAction h f s).toggles = s.toggles := rfl
@[simp] theorem modeAction_handed (h f : Bool) (s : State) : (modeAction h f s).handed = s.handed := rfl
@[simp] theorem modeAction_retired (h f : Bool) (s : State) : (modeAction h f s).retired = s.retired := rfl
@[simp] theorem modeAction_freeReads (h f : Bool) (s : State) : (modeAction h f s).freeReads = s.freeReads := rfl

/-! ### `lineReset` -/

@[simp] theorem lineReset_horizontalCounter (s : State) : (lineReset s).horizontalCounter = s.horizontalCounter := rfl
@[simp] theorem lineReset_verticalCounter (s : State) : (lineReset s).verticalCounter = s.verticalCounter := rfl
@[simp] theorem lineReset_windowLine (s : State) : (lineReset s).windowLine = s.windowLine := rfl
@[simp] theorem lineReset_lineAddr (s : State) : (lineReset s).lineAddr = lineAddrOf (if s.windowLine = Config.hiresLines then true else s.textMode) s.windowLine := rfl
@[simp] theorem lineReset_pixelCounter (s : State) : (lineReset s).pixelCounter = s.pixelCounter := rfl
@[simp] theorem lineReset_palFreq (s : State) : (lineReset s).palFreq = s.palFreq := rfl
@[simp] theorem lineReset_totalLines (s : State) : (lineReset s).totalLines = s.totalLines := rfl
@[simp] theorem lineReset_hiresMode (s : State) : (lineReset s).hiresMode = s.hiresMode := rfl
@[simp] theorem lineReset_textMode (s : State) : (lineReset s).textMode = (if s.windowLine = Config.hiresLines then true else s.textMode) := rfl
@[simp] theorem lineReset_charset (s : State) : (lineReset s).charset = 0#1 := rfl
@[simp] theorem lineReset_charsetBase (s : State) : (lineReset s).charsetBase = s.charsetBase := rfl
@[simp] theorem lineReset_charsetAddr (s : State) : (lineReset s).charsetAddr = s.charsetBase := rfl
@[simp] theorem lineReset_charline (s : State) : (lineReset s).charline = lineAnd7 s.windowLine := rfl
@[simp] theorem lineReset_doubleHeight (s : State) : (lineReset s).doubleHeight = false := rfl
@[simp] theorem lineReset_blink (s : State) : (lineReset s).blink = false := rfl
@[simp] theorem lineReset_blinkMask (s : State) : (lineReset s).blinkMask = 63#6 := rfl
@[simp] theorem lineReset_ink (s : State) : (lineReset s).ink = 7#3 := rfl
@[simp] theorem lineReset_paper (s : State) : (lineReset s).paper = 0#3 := rfl
@[simp] theorem lineReset_frameCount (s : State) : (lineReset s).frameCount = s.frameCount := rfl
@[simp] theorem lineReset_buf0 (s : State) : (lineReset s).buf0 = s.buf0 := rfl
@[simp] theorem lineReset_buf1 (s : State) : (lineReset s).buf1 = s.buf1 := rfl
@[simp] theorem lineReset_activeIndex (s : State) : (lineReset s).activeIndex = s.activeIndex := rfl
@[simp] theorem lineReset_ready (s : State) : (lineReset s).ready = s.ready := rfl
@[simp] theorem lineReset_faulted (s : State) : (lineReset s).faulted = s.faulted := rfl
@[simp] theorem lineReset_screenWidth (s : State) : (lineReset s).screenWidth = s.screenWidth := rfl
@[simp] theorem lineReset_screenHeight (s : State) : (lineReset s).screenHeight = s.screenHeight := rfl
@[simp] theorem lineReset_frameCountBits (s : State) : (lineReset s).frameCountBits = s.frameCountBits := rfl
@[simp] theorem lineReset_mem (s : State) : (lineReset s).mem = s.mem := rfl
@[simp] theorem lineReset_schedule (s : State) : (lineReset s).schedule = s.schedule := rfl
@[simp] theorem lineReset_stepResult (s : State) : (lineReset s).stepResult = s.stepResult := rfl
@[simp] theorem lineReset_pollResult (s : State) : (lineReset s).pollResult = s.pollResult := rfl
@[simp] theorem lineReset_dumpResult (s : State) : (lineReset s).dumpResult = s.dumpResult := rfl
@[simp] theorem lineReset_readResult (s : State) : (lineReset s).readResult = s.readResult := rfl
@[simp] theorem lineReset_busReads (s : State) : (lineReset s).busReads = s.busReads := rfl
@[simp] theorem lineReset_blockId (s : State) : (lineReset s).blockId = s.blockId := rfl
@[simp] theorem lineReset_toggles (s : State) : (lineReset s).toggles = s.toggles := rfl
@[simp] theorem lineReset_handed (s : State) : (lineReset s).handed = s.handed := rfl
@[simp] theorem lineReset_retired (s : State) : (lineReset s).retired = s.retired := rfl
@[simp] theorem lineReset_freeReads (s : State) : (lineReset s).freeReads = s.freeReads := rfl

/-! ### `nextLine` -/

@[simp] theorem nextLine_horizontalCounter (s : State) : (nextLine s).horizontalCounter = 0 := rfl
@[simp] theorem nextLine_verticalCounter (s : State) : (nextLine s).verticalCounter = s.verticalCounter + 1 := rfl
@[simp] theorem nextLine_windowLine (s : State) : (nextLine s).windowLine = ((s.verticalCounter + 1 : Nat) : Int) - Config.vTopBlank := rfl
@[simp] theorem nextLine_lineAddr (s : State) : (nextLine s).lineAddr = s.lineAddr := rfl
@[simp] theorem nextLine_pixelCounter (s : State) : (nextLine s).pixelCounter = s.pixelCounter := rfl
@[simp] theorem nextLine_palFreq (s : State) : (nextLine s).palFreq = s.palFreq := rfl
@[simp] theorem nextLine_totalLines (s : State) : (nextLine s).totalLines = s.totalLines := rfl
@[simp] theorem nextLine_hiresMode (s : State) : (nextLine s).hiresMode = s.hiresMode := rfl
@[simp] theorem nextLine_textMode (s : State) : (nextLine s).textMode = s.textMode := rfl
@[simp] theorem nextLine_charset (s : State) : (nextLine s).charset = s.charset := rfl
@[simp] theorem nextLine_charsetBase (s : State) : (nextLine s).charsetBase = s.charsetBase := rfl
@[simp] theorem nextLine_charsetAddr (s : State) : (nextLine s).charsetAddr = s.charsetAddr := rfl
@[simp] theorem nextLine_charline (s : State) : (nextLine s).charline = s.charline := rfl
@[simp] theorem nextLine_doubleHeight (s : State) : (nextLine s).doubleHeight = s.doubleHeight := rfl
@[simp] theorem nextLine_blink (s : State) : (nextLine s).blink = s.blink := rfl
@[simp] theorem nextLine_blinkMask (s : State) : (nextLine s).blinkMask = s.blinkMask := rfl
@[simp] theorem nextLine_ink (s : State) : (nextLine s).ink = s.ink := rfl
@[simp] theorem nextLine_paper (s : State) : (nextLine s).paper = s.paper := rfl
@[simp] theorem nextLine_frameCount (s : State) : (nextLine s).frameCount = s.frameCount := rfl
@[simp] theorem nextLine_buf0 (s : State) : (nextLine s).buf0 = s.buf0 := rfl
@[simp] theorem nextLine_buf1 (s : State) : (nextLine s).buf1 = s.buf1 := rfl
@[simp] theorem nextLine_activeIndex (s : State) : (nextLine s).activeIndex = s.activeIndex := rfl
@[simp] theorem nextLine_ready (s : State) : (nextLine s).ready = s.ready := rfl
@[simp] theorem nextLine_faulted (s : State) : (nextLine s).faulted = s.faulted := rfl
@[simp] theorem nextLine_screenWidth (s : State) : (nextLine s).screenWidth = s.screenWidth := rfl
@[simp] theorem nextLine_screenHeight (s : State) : (nextLine s).screenHeight = s.screenHeight := rfl
@[simp] theorem nextLine_frameCountBits (s : State) : (nextLine s).frameCountBits = s.frameCountBits := rfl
@[simp] theorem nextLine_mem (s : State) : (nextLine s).mem = s.mem := rfl
@[simp] theorem nextLine_schedule (s : State) : (nextLine s).schedule = s.schedule := rfl
@[simp] theorem nextLine_stepResult (s : State) : (nextLine s).stepResult = s.stepResult := rfl
@[simp] theorem nextLine_pollResult (s : State) : (nextLine s).pollResult = s.pollResult := rfl
@[simp] theorem nextLine_dumpResult (s : State) : (nextLine s).dumpResult = s.dumpResult := rfl
@[simp] theorem nextLine_readResult (s : State) : (nextLine s).readResult = s.readResult := rfl
@[simp] theorem nextLine_busReads (s : State) : (nextLine s).busReads = s.busReads := rfl
@[simp] theorem nextLine_blockId (s : State) : (nextLine s).blockId = s.blockId := rfl
@[simp] theorem nextLine_toggles (s : State) : (nextLine s).toggles = s.toggles := rfl
@[simp] theorem nextLine_handed (s : State) : (nextLine s).handed = s.handed := rfl
@[simp] theorem nextLine_retired (s : State) : (nextLine s).retired = s.retired := rfl
@[simp] theorem nextLine_freeReads (s : State) : (nextLine s).freeReads = s.freeReads := rfl

/-! ### `toggle` -/

@[simp] theorem toggle_horizontalCounter (s : State) : (toggle s).horizontalCounter = s.horizontalCounter := rfl
@[simp] theorem toggle_verticalCounter (s : State) : (toggle s).verticalCounter = s.verticalCounter := rfl
@[simp] theorem toggle_windowLine (s : State) : (toggle s).windowLine = s.windowLine := rfl
@[simp] theorem toggle_lineAddr (s : State) : (toggle s).lineAddr = s.lineAddr := rfl
@[simp] theorem toggle_pixelCounter (s : State) : (toggle s).pixelCounter = s.pixelCounter := rfl
@[simp] theorem toggle_palFreq (s : State) : (toggle s).palFreq = s.palFreq := rfl
@[simp] theorem toggle_totalLines (s : State) : (toggle s).totalLines = s.totalLines := rfl
@[simp] theorem toggle_hiresMode (s : State) : (toggle s).hiresMode = s.hiresMode := rfl
@[simp] theorem toggle_textMode (s : State) : (toggle s).textMode = s.textMode := rfl
@[simp] theorem toggle_charset (s : State) : (toggle s).charset = s.charset := rfl
@[simp] theorem toggle_charsetBase (s : State) : (toggle s).charsetBase = s.charsetBase := rfl
@[simp] theorem toggle_charsetAddr (s : State) : (toggle s).charsetAddr = s.charsetAddr := rfl
@[simp] theorem toggle_charline (s : State) : (toggle s).charline = s.charline := rfl
@[simp] theorem toggle_doubleHeight (s : State) : (toggle s).doubleHeight = s.doubleHeight := rfl
@[simp] theorem toggle_blink (s : State) : (toggle s).blink = s.blink := rfl
@[simp] theorem toggle_blinkMask (s : State) : (toggle s).blinkMask = s.blinkMask := rfl
@[simp] theorem toggle_ink (s : State) : (toggle s).ink = s.ink := rfl
@[simp] theorem toggle_paper (s : State) : (toggle s).paper = s.paper := rfl
@[simp] theorem toggle_frameCount (s : State) : (toggle s).frameCount = s.frameCount := rfl
@[simp] theorem toggle_buf0 (s : State) : (toggle s).buf0 = s.buf0 := rfl
@[simp] theorem toggle_buf1 (s : State) : (toggle s).buf1 = s.buf1 := rfl
@[simp] theorem toggle_activeIndex (s : State) : (toggle s).activeIndex = s.activeIndex.other := rfl
@[simp] theorem toggle_ready (s : State) : (toggle s).ready = true := rfl
@[simp] theorem toggle_faulted (s : State) : (toggle s).faulted = s.faulted := rfl
@[simp] theorem toggle_screenWidth (s : State) : (toggle s).screenWidth = s.screenWidth := rfl
@[simp] theorem toggle_screenHeight (s : State) : (toggle s).screenHeight = s.screenHeight := rfl
@[simp] theorem toggle_frameCountBits (s : State) : (toggle s).frameCountBits = s.frameCountBits := rfl
@[simp] theorem toggle_mem (s : State) : (toggle s).mem = s.mem := rfl
@[simp] theorem toggle_schedule (s : State) : (toggle s).schedule = s.schedule := rfl
@[simp] theorem toggle_stepResult (s : State) : (toggle s).stepResult = s.stepResult := rfl
@[simp] theorem toggle_pollResult (s : State) : (toggle s).pollResult = s.pollResult := rfl
@[simp] theorem toggle_dumpResult (s : State) : (toggle s).dumpResult = s.dumpResult := rfl
@[simp] theorem toggle_readResult (s : State) : (toggle s).readResult = s.readResult := rfl
@[simp] theorem toggle_busReads (s : State) : (toggle s).busReads = s.busReads := rfl
@[simp] theorem toggle_blockId (s : State) : (toggle s).blockId = s.blockId := rfl
@[simp] theorem toggle_toggles (s : State) : (toggle s).toggles = s.toggles + 1 := rfl
@[simp] theorem toggle_handed (s : State) : (toggle s).handed = s.handed := rfl
@[simp] theorem toggle_retired (s : State) : (toggle s).retired = s.retired := rfl
@[simp] theorem toggle_freeReads (s : State) : (toggle s).freeReads = s.freeReads := rfl

/-! ### `State.setBuf` -/

@[simp] theorem setBuf_horizontalCounter (s : State) (b : BufIndex) (p : Pixels) :
    (s.setBuf b p).horizontalCounter = s.horizontalCounter := by cases b <;> rfl
@[simp] theorem setBuf_verticalCounter (s : State) (b : BufIndex) (p : Pixels) :
    (s.setBuf b p).verticalCounter = s.verticalCounter := by cases b <;> rfl
@[simp] theorem setBuf_windowLine (s : State) (b : BufIndex) (p : Pixels) :
    (s.setBuf b p).windowLine = s.windowLine := by cases b <;> rfl
@[simp] theorem setBuf_lineAddr (s : State) (b : BufIndex) (p : Pixels) :
    (s.setBuf b p).lineAddr = s.lineAddr := by cases b <;> rfl
@[simp] theorem setBuf_pixelCounter (s : State) (b : BufIndex) (p : Pixels) :
    (s.setBuf b p).pixelCounter = s.pixelCounter := by cases b <;> rfl
@[simp] theorem setBuf_palFreq (s : State) (b : BufIndex) (p : Pixels) :
    (s.setBuf b p).palFreq = s.palFreq := by cases b <;> rfl
@[simp] theorem setBuf_totalLines (s : State) (b : BufIndex) (p : Pixels) :
    (s.setBuf b p).totalLines = s.totalLines := by cases b <;> rfl
@[simp] theorem setBuf_hiresMode (s : State) (b : BufIndex) (p : Pixels) :
    (s.setBuf b p).hiresMode = s.hiresMode := by cases b <;> rfl
@[simp] theorem setBuf_textMode (s : State) (b : BufIndex) (p : Pixels) :
    (s.setBuf b p).textMode = s.textMode := by cases b <;> rfl
@[simp] theorem setBuf_charset (s : State) (b : BufIndex) (p : Pixels) :
    (s.setBuf b p).charset = s.charset := by cases b <;> rfl
@[simp] theorem setBuf_charsetBase (s : State) (b : BufIndex) (p : Pixels) :
    (s.setBuf b p).charsetBase = s.charsetBase := by cases b <;> rfl
@[simp] theorem setBuf_charsetAddr (s : State) (b : BufIndex) (p : Pixels) :
    (s.setBuf b p).charsetAddr = s.charsetAddr := by cases b <;> rfl
@[simp] theorem setBuf_charline (s : State) (b : BufIndex) (p : Pixels) :
    (s.setBuf b p).charline = s.charline := by cases b <;> rfl
@[simp] theorem setBuf_doubleHeight (s : State) (b : BufIndex) (p : Pixels) :
    (s.setBuf b p).doubleHeight = s.doubleHeight := by cases b <;> rfl
@[simp] theorem setBuf_blink (s : State) (b : BufIndex) (p : Pixels) :
    (s.setBuf b p).blink = s.blink := by cases b <;> rfl
@[simp] theorem setBuf_blinkMask (s : State) (b : BufIndex) (p : Pixels) :
    (s.setBuf b p).blinkMask = s.blinkMask := by cases b <;> rfl
@[simp] theorem setBuf_ink (s : State) (b : BufIndex) (p : Pixels) :
    (s.setBuf b p).ink = s.ink := by cases b <;> rfl
@[simp] theorem setBuf_paper (s : State) (b : BufIndex) (p : Pixels) :
    (s.setBuf b p).paper = s.paper := by cases b <;> rfl
@[simp] theorem setBuf_frameCount (s : State) (b : BufIndex) (p : Pixels) :
    (s.setBuf b p).frameCount = s.frameCount := by cases b <;> rfl
@[simp] theorem setBuf_activeIndex (s : State) (b : BufIndex) (p : Pixels) :
    (s.setBuf b p).activeIndex = s.activeIndex := by cases b <;> rfl
@[simp] theorem setBuf_ready (s : State) (b : BufIndex) (p : Pixels) :
    (s.setBuf b p).ready = s.ready := by cases b <;> rfl
@[simp] theorem setBuf_faulted (s : State) (b : BufIndex) (p : Pixels) :
    (s.setBuf b p).faulted = s.faulted := by cases b <;> rfl
@[simp] theorem setBuf_screenWidth (s : State) (b : BufIndex) (p : Pixels) :
    (s.setBuf b p).screenWidth = s.screenWidth := by cases b <;> rfl
@[simp] theorem setBuf_screenHeight (s : State) (b : BufIndex) (p : Pixels) :
    (s.setBuf b p).screenHeight = s.screenHeight := by cases b <;> rfl
@[simp] theorem setBuf_frameCountBits (s : State) (b : BufIndex) (p : Pixels) :
    (s.setBuf b p).frameCountBits = s.frameCountBits := by cases b <;> rfl
@[simp] theorem setBuf_mem (s : State) (b : BufIndex) (p : Pixels) :
    (s.setBuf b p).mem = s.mem := by cases b <;> rfl
@[simp] theorem setBuf_schedule (s : State) (b : BufIndex) (p : Pixels) :
    (s.setBuf b p).schedule = s.schedule := by cases b <;> rfl
@[simp] theorem setBuf_stepResult (s : State) (b : BufIndex) (p : Pixels) :
    (s.setBuf b p).stepResult = s.stepResult := by cases b <;> rfl
@[simp] theorem setBuf_pollResult (s : State) (b : BufIndex) (p : Pixels) :
    (s.setBuf b p).pollResult = s.pollResult := by cases b <;> rfl
@[simp] theorem setBuf_dumpResult (s : State) (b : BufIndex) (p : Pixels) :
    (s.setBuf b p).dumpResult = s.dumpResult := by cases b <;> rfl
@[simp] theorem setBuf_readResult (s : State) (b : BufIndex) (p : Pixels) :
    (s.setBuf b p).readResult = s.readResult := by cases b <;> rfl
@[simp] theorem setBuf_busReads (s : State) (b : BufIndex) (p : Pixels) :
    (s.setBuf b p).busReads = s.busReads := by cases b <;> rfl
@[simp] theorem setBuf_blockId (s : State) (b : BufIndex) (p : Pixels) :
    (s.setBuf b p).blockId = s.blockId := by cases b <;> rfl
@[simp] theorem setBuf_toggles (s : State) (b : BufIndex) (p : Pixels) :
    (s.setBuf b p).toggles = s.toggles := by cases b <;> rfl
@[simp] theorem setBuf_handed (s : State) (b : BufIndex) (p : Pixels) :
    (s.setBuf b p).handed = s.handed := by cases b <;> rfl
@[simp] theorem setBuf_retired (s : State) (b : BufIndex) (p : Pixels) :
    (s.setBuf b p).retired = s.retired := by cases b <;> rfl
@[simp] theorem setBuf_freeReads (s : State) (b : BufIndex) (p : Pixels) :
    (s.setBuf b p).freeReads = s.freeReads := by cases b <;> rfl

theorem setBuf_buf (s : State) (b b' : BufIndex) (p : Pixels) :
    (s.setBuf b p).buf b' = if b' = b then p else s.buf b' := by
  cases b <;> cases b' <;> rfl

@[simp] theorem setBuf_bufferSize (s : State) (b : BufIndex) (p : Pixels) :
    (s.setBuf b p).bufferSize = s.bufferSize := by cases b <;> rfl

/-- Replacing a buffer changes nothing but the two buffers. -/
theorem setBuf_eq (s : State) (b : BufIndex) (p : Pixels) :
    s.setBuf b p = { s with buf0 := (s.setBuf b p).buf0, buf1 := (s.setBuf b p).buf1 } := by
  cases b <;> rfl

/-- A buffer is read off the two buffer fields alone. -/
theorem buf_eq (s : State) (b : BufIndex) :
    s.buf b = match b with | .zero => s.buf0 | .one => s.buf1 := by cases b <;> rfl

end Sys2Proof.Machine
end

