-- ==== Sys2Proof/Laws/Flags.lean ====
section
/-! SUPPORT. What each flag and derived register's computation gives, once, in plain arithmetic. -/

namespace Sys2Proof.Machine

theorem blinkPhase_eq (n : Nat) : blinkPhase n = n.testBit 4 := by
  have h := Nat.and_two_pow n 4
  norm_num at h
  rw [blinkPhase, h]
  cases n.testBit 4 <;> simp

theorem blinkMaskOf_eq (blink : Bool) (n : Nat) :
    blinkMaskOf blink n = if blink && n.testBit 4 then 0#6 else 63#6 := by
  rw [blinkMaskOf, blinkPhase_eq]

theorem totalLinesOf_eq (pal : Bool) : totalLinesOf pal = if pal then 312 else 264 := rfl

theorem charsetBaseOf_eq (hires : Bool) : charsetBaseOf hires = if hires then 0x9800 else 0xB400 :=
  rfl

theorem charsetAddrOf_eq (base : Nat) (c : BitVec 1) :
    charsetAddrOf base c = base + c.toNat * 1024 := rfl

theorem textModeOf_eq (hires : Bool) (w : Int) :
    textModeOf hires w = (!hires || decide (200 ≤ w)) := rfl

theorem lineAddrOf_eq (text : Bool) (w : Int) :
    lineAddrOf text w = if text then 0xBB80 + w / 8 * 40 else 0xA000 + w * 40 := by
  cases text <;> simp [lineAddrOf, Config.textBase, Config.hiresBase, Config.rowBytes]

/-- The glyph row of a line, for each height. -/
theorem charline_eq (double : Bool) (w : Int) :
    (((if double then lineAnd15Half w else lineAnd7 w : Nat)) : Int) =
      if double then w % 16 / 2 else w % 8 := by
  cases double <;> simp [lineAnd15Half, lineAnd7] <;> omega

@[simp] theorem BufIndex.other_other (b : BufIndex) : b.other.other = b := by cases b <;> rfl

end Sys2Proof.Machine
end

