-- ==== Sys2Proof/Laws/Memory.lean ====
section
/-! SUPPORT. The laws of the MemoryBus and of the frame buffers: a read after a write, and that every
operation keeps the canonical form. -/

namespace Sys2Proof.Machine

/-! ### The MemoryBus -/

theorem Memory.wfFrom_mono {lo lo' : Nat} {m : Memory} (h : Memory.wfFrom lo m = true)
    (hle : lo' ≤ lo) : Memory.wfFrom lo' m = true := by
  cases m with
  | nil => rfl
  | cons c rest =>
    simp only [Memory.wfFrom, Bool.and_eq_true, decide_eq_true_eq] at h ⊢
    exact ⟨⟨⟨hle.trans h.1.1.1, h.1.1.2⟩, h.1.2⟩, h.2⟩

/-- An address below every listed one reads as an unlisted address does. -/
theorem Memory.read_below {lo addr : Nat} {m : Memory} (h : Memory.wfFrom lo m = true)
    (hlt : addr < lo) : m.read addr = Memory.unlisted := by
  induction m generalizing lo with
  | nil => rfl
  | cons c rest ih =>
    simp only [Memory.wfFrom, Bool.and_eq_true, decide_eq_true_eq] at h
    have hne : c.1 ≠ addr := by omega
    simp only [Memory.read, hne, if_false]
    exact ih h.2 (by omega)

theorem Memory.read_put {addr : Nat} {b : Byte} {m : Memory}
    (h : Memory.wfFrom (addr + 1) m = true) (addr' : Nat) :
    (Memory.put addr b m).read addr' = if addr' = addr then b else m.read addr' := by
  unfold Memory.put
  split
  · rename_i hb
    split
    · rename_i he
      rw [he, hb]
      exact Memory.read_below h (Nat.lt_succ_self addr)
    · rfl
  · simp only [Memory.read, eq_comm (a := addr) (b := addr')]

theorem Memory.put_wf {lo addr : Nat} {b : Byte} {m : Memory} (hlo : lo ≤ addr)
    (hlast : addr ≤ Config.lastAddress) (h : Memory.wfFrom (addr + 1) m = true) :
    Memory.wfFrom lo (Memory.put addr b m) = true := by
  unfold Memory.put
  split
  · exact Memory.wfFrom_mono h (by omega)
  · rename_i hb
    simp only [Memory.wfFrom, Bool.and_eq_true, decide_eq_true_eq, bne_iff_ne]
    exact ⟨⟨⟨hlo, hlast⟩, hb⟩, h⟩

/-- A read after a write: the byte written at its address, the byte before elsewhere. -/
theorem Memory.read_writeFrom {lo : Nat} {m : Memory} (h : Memory.wfFrom lo m = true) (addr : Nat)
    (b : Byte) (addr' : Nat) :
    (m.write addr b).read addr' = if addr' = addr then b else m.read addr' := by
  induction m generalizing lo with
  | nil => exact Memory.read_put rfl addr'
  | cons c rest ih =>
    obtain ⟨a, v⟩ := c
    have h' := h
    simp only [Memory.wfFrom, Bool.and_eq_true, decide_eq_true_eq] at h
    simp only [Memory.write]
    split
    · rename_i hlt
      refine Memory.read_put ?_ addr'
      simp only [Memory.wfFrom, Bool.and_eq_true, decide_eq_true_eq]
      exact ⟨⟨⟨hlt, h.1.1.2⟩, h.1.2⟩, h.2⟩
    · split
      · rename_i he
        subst he
        rw [Memory.read_put h.2 addr']
        by_cases hx : addr' = addr
        · simp [hx]
        · simp [hx, Memory.read, Ne.symm hx]
      · rename_i hnlt hne
        simp only [Memory.read]
        by_cases hx : a = addr'
        · have : addr' ≠ addr := by omega
          simp [hx, this]
        · simp [hx, ih h.2]

theorem Memory.writeFrom_wf {lo : Nat} {m : Memory} (h : Memory.wfFrom lo m = true) {addr : Nat}
    (b : Byte) (hlo : lo ≤ addr) (hlast : addr ≤ Config.lastAddress) :
    Memory.wfFrom lo (m.write addr b) = true := by
  induction m generalizing lo with
  | nil => exact Memory.put_wf hlo hlast rfl
  | cons c rest ih =>
    obtain ⟨a, v⟩ := c
    simp only [Memory.wfFrom, Bool.and_eq_true, decide_eq_true_eq] at h
    simp only [Memory.write]
    split
    · rename_i hlt
      refine Memory.put_wf hlo hlast ?_
      simp only [Memory.wfFrom, Bool.and_eq_true, decide_eq_true_eq]
      exact ⟨⟨⟨hlt, h.1.1.2⟩, h.1.2⟩, h.2⟩
    · split
      · rename_i he
        subst he
        exact Memory.put_wf hlo hlast h.2
      · rename_i hnlt hne
        simp only [Memory.wfFrom, Bool.and_eq_true, decide_eq_true_eq]
        exact ⟨⟨⟨h.1.1.1, h.1.1.2⟩, h.1.2⟩, ih h.2 (by omega)⟩

theorem Memory.read_write {m : Memory} (h : m.wf = true) (addr : Nat) (b : Byte) (addr' : Nat) :
    (m.write addr b).read addr' = if addr' = addr then b else m.read addr' :=
  Memory.read_writeFrom h addr b addr'

/-- The one operation that changes memory keeps its canonical form. -/
theorem Memory.write_wf {m : Memory} (h : m.wf = true) {addr : Nat} (b : Byte)
    (hlast : addr ≤ Config.lastAddress) : (m.write addr b).wf = true :=
  Memory.writeFrom_wf h b (Nat.zero_le _) hlast

theorem reset_memory_wf : State.reset.mem.wf = true := rfl

/-! ### The frame buffers -/

/-- A pixel after a store: the colour stored at its offset, the pixel before elsewhere. -/
theorem Pixels.stored_store (p : Pixels) (off : Nat) (c : Colour) (off' : Nat) :
    Pixels.stored (Pixels.store p off c) off' =
      if off' = off then some c else Pixels.stored p off' := by
  induction p with
  | nil => simp [Pixels.store, Pixels.stored, eq_comm]
  | cons x rest ih =>
    obtain ⟨o, v⟩ := x
    simp only [Pixels.store]
    split
    · simp [Pixels.stored, eq_comm]
    · split
      · rename_i he
        subst he
        by_cases hx : o = off'
        · simp [Pixels.stored, hx]
        · simp [Pixels.stored, hx, Ne.symm hx]
      · rename_i hne
        simp only [Pixels.stored, ih]
        by_cases hx : o = off'
        · have : off' ≠ off := by omega
          simp [hx, this]
        · simp [hx]

theorem Pixels.wfBelow_mono {hi hi' : Nat} {p : Pixels} (h : Pixels.wfBelow hi p = true)
    (hle : hi ≤ hi') : Pixels.wfBelow hi' p = true := by
  cases p with
  | nil => rfl
  | cons x rest =>
    simp only [Pixels.wfBelow, Bool.and_eq_true, decide_eq_true_eq] at h ⊢
    exact ⟨by omega, h.2⟩

/-- A store keeps the canonical form of a buffer. -/
theorem Pixels.store_wf {hi : Nat} {p : Pixels} (h : Pixels.wfBelow hi p = true) {off : Nat}
    (c : Colour) (hlt : off < hi) : Pixels.wfBelow hi (Pixels.store p off c) = true := by
  induction p generalizing hi with
  | nil => simp [Pixels.store, Pixels.wfBelow, hlt]
  | cons x rest ih =>
    obtain ⟨o, v⟩ := x
    simp only [Pixels.wfBelow, Bool.and_eq_true, decide_eq_true_eq] at h
    simp only [Pixels.store]
    split
    · simp [Pixels.wfBelow, *]
    · split
      · rename_i he
        subst he
        simp [Pixels.wfBelow, h]
      · simp only [Pixels.wfBelow, Bool.and_eq_true, decide_eq_true_eq]
        exact ⟨h.1, ih h.2 (by omega)⟩

end Sys2Proof.Machine
end

