-- ==== Sys2Proof/Laws/Cell.lean ====
section
/-! SUPPORT. What each shared operation of a cell can do, once: the memory read, the pixel stores,
EmitCell, and from them every stream code. -/

namespace Sys2Proof.Machine

@[simp] theorem andThen_next (s : State) (k : State → Result) : andThen (.next s) k = k s := rfl
@[simp] theorem andThen_fault (f : Fault) (k : State → Result) : andThen (.fault f) k = .fault f := rfl
@[simp] theorem andThen_refused (e : Refusal) (k : State → Result) :
    andThen (.refused e) k = .refused e := rfl
@[simp] theorem mapNext_next (g : State → State) (s : State) : mapNext g (.next s) = .next (g s) := rfl
@[simp] theorem mapNext_fault (g : State → State) (f : Fault) : mapNext g (.fault f) = .fault f := rfl
@[simp] theorem mapNext_refused (g : State → State) (e : Refusal) :
    mapNext g (.refused e) = .refused e := rfl

/-- Going on with a function of the next state is changing the next state. -/
theorem andThen_next_eq_mapNext (r : Result) (g : State → State) :
    andThen r (fun t => .next (g t)) = mapNext g r := by cases r <;> rfl

/-- What going on after a result can answer with a next state. -/
theorem andThen_eq_next {r : Result} {k : State → Result} {t : State} (h : andThen r k = .next t) :
    ∃ u, r = .next u ∧ k u = .next t := by
  cases r with
  | next u => exact ⟨u, rfl, h⟩
  | fault f => cases h
  | refused e => cases h

theorem mapNext_eq_next {r : Result} {g : State → State} {t : State} (h : mapNext g r = .next t) :
    ∃ u, r = .next u ∧ t = g u := by
  cases r with
  | next u => cases h; exact ⟨u, rfl, rfl⟩
  | fault f => cases h
  | refused e => cases h

theorem mapNext_eq_fault {r : Result} {g : State → State} {f : Fault} (h : mapNext g r = .fault f) :
    r = .fault f := by
  cases r with
  | next u => cases h
  | fault f => cases h; rfl
  | refused e => cases h

/-! ### The memory read -/

theorem memRead_inRange {fetch : FetchKind} {addr : Int} {s : State} (h0 : 0 ≤ addr)
    (h1 : addr ≤ 65535) : memRead fetch addr s =
      .ok (s.mem.read addr.toNat, { s with busReads := s.busReads ++ [⟨fetch, addr⟩] }) :=
  if_pos ⟨h0, h1⟩

theorem memRead_outOfRange {fetch : FetchKind} {addr : Int} {s : State}
    (h : addr < 0 ∨ 65535 < addr) : memRead fetch addr s = .error (.addrRange fetch addr) := by
  refine if_neg ?_
  rintro ⟨h0, h1⟩
  have : addr ≤ 65535 := h1
  omega

theorem glyphAddr_nonneg (b : Byte) (s : State) : 0 ≤ glyphAddr b s := Int.natCast_nonneg _

/-- The source of a cell's dots, where its glyph address exists. -/
theorem cellByte_ready {b : Byte} {s : State} (h : s.textMode = true → glyphAddr b s ≤ 65535) :
    cellByte b s = .ok (cellSource b s, { s with busReads := s.busReads ++ cellReads b s }) := by
  unfold cellByte cellSource cellReads
  by_cases ht : s.textMode = true
  · simp only [if_pos ht]
    exact memRead_inRange (glyphAddr_nonneg b s) (h ht)
  · simp only [if_neg ht, List.append_nil]

theorem cellByte_missing {b : Byte} {s : State} (ht : s.textMode = true)
    (h : 65535 < glyphAddr b s) : cellByte b s = .error (.addrRange .glyph (glyphAddr b s)) := by
  unfold cellByte
  rw [if_pos ht]
  exact memRead_outOfRange (Or.inr h)

/-! ### The pixel stores -/

theorem pixWrite_inside {off : Nat} {c : Colour} {s : State} (h : off < s.bufferSize) :
    pixWrite off c s =
      .next (s.setBuf s.activeIndex (Pixels.store (s.buf s.activeIndex) off c)) := if_pos h

theorem pixWrite_outside {off : Nat} {c : Colour} {s : State} (h : s.bufferSize ≤ off) :
    pixWrite off c s = .refused (.pixelBeyondBuffer off) := if_neg (by omega)

/-- A state with other buffer contents. -/
def withBufs (s : State) (x y : Pixels) : State := { s with buf0 := x, buf1 := y }

theorem setBuf_withBufs (s : State) (b : BufIndex) (p : Pixels) :
    ∃ x y, s.setBuf b p = withBufs s x y := by
  cases b
  · exact ⟨p, s.buf1, rfl⟩
  · exact ⟨s.buf0, p, rfl⟩

/-- From `s` to `t` the buffer that is not active is untouched, and the active one keeps its canonical
form below any bound that is at least `last`. -/
def KeepsForm (last : Nat) (s t : State) : Prop :=
  t.buf s.activeIndex.other = s.buf s.activeIndex.other ∧
  ∀ hi, last ≤ hi → Pixels.wfBelow hi (s.buf s.activeIndex) = true →
    Pixels.wfBelow hi (t.buf s.activeIndex) = true

theorem BufIndex.other_ne (b : BufIndex) : b.other ≠ b := by cases b <;> decide

/-- Consecutive stores inside the buffer: only the two buffer fields change, and every pixel is the
one stored or as it was. -/
theorem pixWrites_inside (cs : List Colour) (off : Nat) (s : State)
    (h : off + cs.length ≤ s.bufferSize) : ∃ x y, pixWrites off cs s = .next (withBufs s x y) ∧
      KeepsForm (off + cs.length) s (withBufs s x y) ∧
      ∀ b off', Pixels.stored ((withBufs s x y).buf b) off' =
        if b = s.activeIndex ∧ off ≤ off' ∧ off' < off + cs.length then cs[off' - off]?
        else Pixels.stored (s.buf b) off' := by
  induction cs generalizing off s with
  | nil =>
    refine ⟨s.buf0, s.buf1, rfl, ⟨rfl, fun _ _ h => h⟩, fun b off' => ?_⟩
    rw [if_neg (by simp only [List.length_nil]; omega)]
    rfl
  | cons c rest ih =>
    simp only [List.length_cons] at h
    obtain ⟨x, y, ht, hk, hs⟩ := ih (off + 1)
      (s.setBuf s.activeIndex (Pixels.store (s.buf s.activeIndex) off c)) (by simp; omega)
    obtain ⟨x', y', hxy⟩ :=
      setBuf_withBufs s s.activeIndex (Pixels.store (s.buf s.activeIndex) off c)
    have hw : withBufs (s.setBuf s.activeIndex (Pixels.store (s.buf s.activeIndex) off c)) x y =
        withBufs s x y := by rw [hxy]; rfl
    rw [hw] at ht hs hk
    simp only [KeepsForm, setBuf_activeIndex, setBuf_buf, if_true,
      if_neg (BufIndex.other_ne s.activeIndex)] at hk
    refine ⟨x, y, by rw [pixWrites, pixWrite_inside (by omega)]; exact ht,
      ⟨hk.1, fun hi hle hwf => ?_⟩, fun b off' => ?_⟩
    · simp only [List.length_cons] at hle
      exact hk.2 hi (by omega) (Pixels.store_wf hwf c (by omega))
    rw [hs]
    simp only [setBuf_activeIndex, setBuf_buf, List.length_cons]
    by_cases hb : b = s.activeIndex
    · subst hb
      simp only [true_and, if_true, Pixels.stored_store]
      by_cases h1 : off' = off
      · subst h1
        simp
      · by_cases h2 : off + 1 ≤ off' ∧ off' < off + 1 + rest.length
        · rw [if_pos h2, if_pos (by omega)]
          obtain ⟨k, rfl⟩ : ∃ k, off' = off + 1 + k := ⟨off' - (off + 1), by omega⟩
          have e1 : off + 1 + k - (off + 1) = k := by omega
          have e2 : off + 1 + k - off = k + 1 := by omega
          rw [e1, e2, List.getElem?_cons_succ]
        · rw [if_neg h2, if_neg h1, if_neg (by omega)]
    · simp [hb]

theorem pixWrites_outside (cs : List Colour) (off : Nat) (s : State)
    (h : s.bufferSize < off + cs.length) (hne : cs ≠ []) :
    ∃ off', pixWrites off cs s = .refused (.pixelBeyondBuffer off') := by
  induction cs generalizing off s with
  | nil => exact absurd rfl hne
  | cons c rest ih =>
    simp only [List.length_cons] at h
    by_cases hin : off < s.bufferSize
    · simp only [pixWrites, pixWrite_inside hin, andThen_next]
      refine ih (off + 1) _ (by simp; omega) ?_
      rintro rfl
      simp at h
      omega
    · exact ⟨off, by simp [pixWrites, pixWrite_outside (by omega : s.bufferSize ≤ off)]⟩

/-! ### EmitCell -/

theorem reverseBit_eq (b : Byte) : reverseBit b = b.getLsbD 7 := by
  revert b
  decide

/-- The colour of a dot, with reverse video as the exchange of ink and paper. -/
theorem dotColour_eq (b cd : Byte) (ink paper : Colour) (d : Nat) :
    dotColour b cd ink paper d =
      if cd.getLsbD (5 - d) then (if b.getLsbD 7 then paper else ink)
      else (if b.getLsbD 7 then ink else paper) := by
  simp only [dotColour, cellDot, foreground, background, reverseBit_eq]

theorem cellColours_get (b cd : Byte) (ink paper : Colour) {d : Nat} (h : d < 6) :
    (cellColours b cd ink paper)[d]? = some (dotColour b cd ink paper d) := by
  match d, h with
  | 0, _ => rfl
  | 1, _ => rfl
  | 2, _ => rfl
  | 3, _ => rfl
  | 4, _ => rfl
  | 5, _ => rfl

theorem emitCell_ready {b cd : Byte} {s : State} (h : s.pixelCounter + 6 ≤ s.bufferSize) :
    ∃ t, emitCell b cd s = .next t ∧
      t = { s with pixelCounter := s.pixelCounter + 6, buf0 := t.buf0, buf1 := t.buf1 } ∧
      CellStores s t (dotColour b cd s.ink s.paper) ∧ KeepsForm (s.pixelCounter + 6) s t := by
  obtain ⟨x, y, ht, hk, hs⟩ := pixWrites_inside (cellColours b cd s.ink s.paper) s.pixelCounter s h
  refine ⟨{ withBufs s x y with pixelCounter := s.pixelCounter + 6 }, ?_, rfl, ?_, hk⟩
  · unfold emitCell
    rw [ht]
    rfl
  · intro b' off
    refine (hs b' off).trans ?_
    rw [show (cellColours b cd s.ink s.paper).length = 6 from rfl]
    by_cases hc : b' = s.activeIndex ∧ s.pixelCounter ≤ off ∧ off < s.pixelCounter + 6
    · rw [if_pos hc, if_pos hc, cellColours_get b cd s.ink s.paper (by omega)]
    · rw [if_neg hc, if_neg hc]

theorem emitCell_full {b cd : Byte} {s : State} (h : s.bufferSize < s.pixelCounter + 6) :
    ∃ off, emitCell b cd s = .refused (.pixelBeyondBuffer off) := by
  obtain ⟨off, ho⟩ := pixWrites_outside (cellColours b cd s.ink s.paper) s.pixelCounter s h
    (List.cons_ne_nil _ _)
  exact ⟨off, by simp [emitCell, ho]⟩

/-! ### The stream codes -/

/-- The registers a code writes besides those every cell writes. -/
def effect : Instr → State → State
  | .ink _ c => inkAction c
  | .attr _ b d a => attrAction b d a
  | .paper _ c => paperAction c
  | .mode _ h f _ => modeAction h f
  | .data1 _ _ => id
  | .data2 _ _ => id
  | .data3 _ _ => id

/-- The byte a code's dots come from: 0 for a control code, the masked source for a data code. -/
def cellOf : Instr → State → Byte
  | .ink _ _, _ => 0
  | .attr _ _ _ _, _ => 0
  | .paper _ _, _ => 0
  | .mode _ _ _ _, _ => 0
  | .data1 r c, s => cellSource (encodeByte (.data1 r c)) s &&& s.blinkMask.setWidth 8
  | .data2 r c, s => cellSource (encodeByte (.data2 r c)) s &&& s.blinkMask.setWidth 8
  | .data3 r c, s => cellSource (encodeByte (.data3 r c)) s &&& s.blinkMask.setWidth 8

/-- The dots of the code that a byte decodes to are those `cellDots` gives the byte. -/
theorem cellOf_decode (b : Byte) (s : State) : cellOf (decodeByte b) s = cellDots b s := by
  have hc : ∀ c : Byte, (match decodeByte c with
      | .ink _ _ => true
      | .attr _ _ _ _ => true
      | .paper _ _ => true
      | .mode _ _ _ _ => true
      | .data1 _ _ => false
      | .data2 _ _ => false
      | .data3 _ _ => false) = decide (c &&& 0x60#8 = 0#8) := by decide
  have he : ∀ c : Byte, encodeByte (decodeByte c) = c := by decide
  have hb := hc b
  have hbe := he b
  unfold cellDots
  generalize decodeByte b = i at hb hbe ⊢
  cases i with
  | ink r c => rw [if_pos (of_decide_eq_true hb.symm)]; rfl
  | attr r d h a => rw [if_pos (of_decide_eq_true hb.symm)]; rfl
  | paper r c => rw [if_pos (of_decide_eq_true hb.symm)]; rfl
  | mode r h f x => rw [if_pos (of_decide_eq_true hb.symm)]; rfl
  | data1 r c => rw [if_neg (of_decide_eq_false hb.symm), ← hbe]; rfl
  | data2 r c => rw [if_neg (of_decide_eq_false hb.symm), ← hbe]; rfl
  | data3 r c => rw [if_neg (of_decide_eq_false hb.symm), ← hbe]; rfl

/-- The colour of dot `d` of a code's cell: from `ink` and `paper` after its action. -/
def cellColour (i : Instr) (s : State) : Nat → Colour :=
  dotColour (encodeByte i) (cellOf i s) (effect i s).ink (effect i s).paper

/-- The state after a code's cell, given the two buffers. -/
def afterCell (i : Instr) (s : State) (buf0 buf1 : Pixels) : State :=
  { effect i s with
    pixelCounter := s.pixelCounter + 6
    buf0 := buf0
    buf1 := buf1
    busReads := s.busReads ++ cellReads (encodeByte i) s }

/-- A control code or a data code is its effect after the glyph read, and the emission of its cell. -/
theorem exec_eq (i : Instr) {s : State}
    (h : s.textMode = true → glyphAddr (encodeByte i) s ≤ 65535) :
    exec i s = emitCell (encodeByte i) (cellOf i s)
      (effect i { s with busReads := s.busReads ++ cellReads (encodeByte i) s }) := by
  cases i <;>
    simp only [exec, execInk, execAttr, execPaper, execMode, execData1, execData2, execData3,
      renderControl, renderData, cellByte_ready h] <;> rfl

/-- Where its glyph address exists and its six pixels fit, a code completes; only its own registers,
the six pixels, `pixelCounter` and the noted reads change. -/
theorem exec_ready (i : Instr) {s : State} (h : CellReady (encodeByte i) s) :
    ∃ t, exec i s = .next t ∧ t = afterCell i s t.buf0 t.buf1 ∧
      CellStores s t (cellColour i s) ∧ KeepsForm (s.pixelCounter + 6) s t := by
  rw [exec_eq i h.1]
  obtain ⟨t, ht, hf, hs, hk⟩ := emitCell_ready (b := encodeByte i) (cd := cellOf i s)
    (s := effect i { s with busReads := s.busReads ++ cellReads (encodeByte i) s })
    (by cases i <;> exact h.2)
  refine ⟨t, ht, ?_, ?_, ?_⟩
  · rw [hf]
    cases i <;> rfl
  · cases i <;> exact hs
  · cases i <;> exact hk

theorem exec_missingGlyph (i : Instr) {s : State} (ht : s.textMode = true)
    (h : 65535 < glyphAddr (encodeByte i) s) :
    exec i s = .fault (.addrRange .glyph (glyphAddr (encodeByte i) s)) := by
  cases i <;>
    simp only [exec, execInk, execAttr, execPaper, execMode, execData1, execData2, execData3,
      renderControl, renderData, cellByte_missing ht h] <;> rfl

theorem exec_noRoom (i : Instr) {s : State}
    (h : s.textMode = true → glyphAddr (encodeByte i) s ≤ 65535)
    (hp : s.bufferSize < s.pixelCounter + 6) :
    ∃ off, exec i s = .refused (.pixelBeyondBuffer off) := by
  rw [exec_eq i h]
  exact emitCell_full (by cases i <;> exact hp)

/-- What running a code can do, once: a next state means that its cell was ready and that it did what
`exec_ready` says. -/
theorem exec_next {i : Instr} {s t : State} (h : exec i s = .next t) :
    CellReady (encodeByte i) s ∧ t = afterCell i s t.buf0 t.buf1 ∧
      CellStores s t (cellColour i s) ∧ KeepsForm (s.pixelCounter + 6) s t := by
  by_cases hg : s.textMode = true → glyphAddr (encodeByte i) s ≤ 65535
  · by_cases hp : s.pixelCounter + 6 ≤ s.bufferSize
    · obtain ⟨t', ht', hr⟩ := exec_ready i ⟨hg, hp⟩
      rw [ht'] at h
      cases h
      exact ⟨⟨hg, hp⟩, hr⟩
    · obtain ⟨off, ho⟩ := exec_noRoom i hg (by omega)
      rw [ho] at h
      cases h
  · simp only [Classical.not_imp, Int.not_le] at hg
    rw [exec_missingGlyph i hg.1 hg.2] at h
    cases h

/-- A fault of a code is `ADDR_RANGE` of its glyph read. -/
theorem exec_fault {i : Instr} {s : State} {f : Fault} (h : exec i s = .fault f) :
    65535 < glyphAddr (encodeByte i) s ∧ f = .addrRange .glyph (glyphAddr (encodeByte i) s) := by
  by_cases hg : s.textMode = true → glyphAddr (encodeByte i) s ≤ 65535
  · by_cases hp : s.pixelCounter + 6 ≤ s.bufferSize
    · obtain ⟨t', ht', -⟩ := exec_ready i ⟨hg, hp⟩
      rw [ht'] at h
      cases h
    · obtain ⟨off, ho⟩ := exec_noRoom i hg (by omega)
      rw [ho] at h
      cases h
  · simp only [Classical.not_imp, Int.not_le] at hg
    rw [exec_missingGlyph i hg.1 hg.2] at h
    cases h
    exact ⟨hg.2, rfl⟩

end Sys2Proof.Machine
end

