-- ==== Sys2Proof/Laws/Step.lean ====
section
/-! SUPPORT. What the raster's moves and one STEP can do, once; later proofs cite these and do not
unfold the step. -/

namespace Sys2Proof.Machine

/-! ### The raster's moves -/

/-- Inside a line, `advance` only adds one to `horizontalCounter` and reports no frame. -/
theorem advance_within {s : State} (h : s.horizontalCounter ≠ 63) : advance s =
    { s with horizontalCounter := s.horizontalCounter + 1, stepResult := some false } :=
  if_neg (by simp only [Config.hTotal]; omega)

theorem advance_lineEnd {s : State} (h : s.horizontalCounter = 63) :
    advance s = lineWrap { s with horizontalCounter := s.horizontalCounter + 1 } :=
  if_pos (by simp only [Config.hTotal]; omega)

/-- The line wrap into a line above 224 that does not end the frame: the per-line reset. -/
theorem advance_newLine {s : State} (h : s.horizontalCounter = 63)
    (hv : s.verticalCounter + 1 < 233) (hT : s.verticalCounter + 1 ≠ s.totalLines) :
    advance s = { lineReset (nextLine s) with stepResult := some false } := by
  have hw : (nextLine s).windowLine < 224 := by
    rw [nextLine_windowLine]
    simp only [Config.vTopBlank]
    omega
  rw [advance_lineEnd h]
  have ht : lineResetIfAbove (nextLine { s with horizontalCounter := s.horizontalCounter + 1 }) =
      lineReset (nextLine s) := if_pos hw
  simp only [lineWrap, ht]
  exact if_neg hT

/-- The line wrap into line 224 or a later one that does not end the frame: the counters only. -/
theorem advance_blankLine {s : State} (h : s.horizontalCounter = 63)
    (hv : 233 ≤ s.verticalCounter + 1) (hT : s.verticalCounter + 1 ≠ s.totalLines) :
    advance s = { nextLine s with stepResult := some false } := by
  have hw : ¬ (nextLine s).windowLine < 224 := by
    rw [nextLine_windowLine]
    simp only [Config.vTopBlank]
    omega
  rw [advance_lineEnd h]
  have ht : lineResetIfAbove (nextLine { s with horizontalCounter := s.horizontalCounter + 1 }) =
      nextLine s := if_neg hw
  simp only [lineWrap, ht]
  exact if_neg hT

/-- The frame wrap's registers do not depend on the line move before it, when that made no per-line
reset. -/
theorem advance_frameEnd {s : State} (h : s.horizontalCounter = 63)
    (hT : s.verticalCounter + 1 = s.totalLines) (hv : 233 ≤ s.verticalCounter + 1) :
    advance s = { frameWrap (nextLine s) with stepResult := some true } := by
  have hw : ¬ (nextLine s).windowLine < 224 := by
    rw [nextLine_windowLine]
    simp only [Config.vTopBlank]
    omega
  rw [advance_lineEnd h]
  have ht : lineResetIfAbove (nextLine { s with horizontalCounter := s.horizontalCounter + 1 }) =
      nextLine s := if_neg hw
  simp only [lineWrap, ht]
  exact if_pos hT

/-! ### STEP -/

/-- The state a cell's code runs in: the stream read is the first of the step's reads. -/
def fetched (s : State) : State := { s with busReads := [⟨.stream, streamAddr s⟩] }

/-- The code a visible STEP runs. -/
def nextCode (s : State) : Instr := decodeByte (s.mem.read (streamAddr s).toNat)

theorem inWindow_iff (s : State) : inWindow s = true ↔
    12 ≤ s.horizontalCounter ∧ s.horizontalCounter ≤ 51 ∧ 0 ≤ s.windowLine ∧ s.windowLine ≤ 223 :=
  decide_eq_true_iff

theorem renderCell_inRange {s : State} (h0 : 0 ≤ streamAddr s) (h1 : streamAddr s ≤ 65535) :
    renderCell { s with busReads := [] } = exec (nextCode s) (fetched s) := by
  have h := memRead_inRange (fetch := .stream) (s := { s with busReads := [] }) h0 h1
  unfold renderCell
  rw [show streamAddr { s with busReads := [] } = streamAddr s from rfl, h]
  rfl

theorem renderCell_outOfRange {s : State} (h : streamAddr s < 0 ∨ 65535 < streamAddr s) :
    renderCell { s with busReads := [] } = .fault (.addrRange .stream (streamAddr s)) := by
  have h' := memRead_outOfRange (fetch := .stream) (s := { s with busReads := [] }) h
  unfold renderCell
  rw [show streamAddr { s with busReads := [] } = streamAddr s from rfl, h']
  rfl

/-- A code leaves `horizontalCounter` alone. -/
theorem exec_horizontalCounter {i : Instr} {s t : State} (h : exec i s = .next t) :
    t.horizontalCounter = s.horizontalCounter := by
  rw [(exec_next h).2.1]
  cases i <;> rfl

theorem chipStep_faulted {s : State} (h : s.faulted = true) :
    chipStep s = .next { s with stepResult := none, busReads := [] } := if_pos h

theorem chipStep_blank {s : State} (hf : s.faulted = false) (hw : inWindow s = false) :
    chipStep s = .next (advance { s with busReads := [] }) := by
  unfold chipStep
  rw [if_neg (by simp [hf]), if_neg (by simp [hw])]

/-- In a visible cycle a STEP is the cell, and one more `horizontalCounter`. -/
theorem chipStep_visible {s : State} (hf : s.faulted = false) (hw : inWindow s = true) :
    chipStep s = mapNext
      (fun t => { t with horizontalCounter := t.horizontalCounter + 1, stepResult := some false })
      (renderCell { s with busReads := [] }) := by
  have hhc := (inWindow_iff s).1 hw
  unfold chipStep
  rw [if_neg (by simp [hf]), if_pos hw, andThen_next_eq_mapNext]
  by_cases hr : 0 ≤ streamAddr s ∧ streamAddr s ≤ 65535
  · rw [renderCell_inRange hr.1 hr.2]
    cases he : exec (nextCode s) (fetched s) with
    | fault f => rfl
    | refused e => rfl
    | next t =>
      have := exec_horizontalCounter he
      have hh : t.horizontalCounter ≠ 63 := by
        rw [this]
        show s.horizontalCounter ≠ 63
        omega
      simp only [mapNext_next, advance_within hh]
  · rw [renderCell_outOfRange (by omega)]
    rfl

/-- What a STEP can do, once. -/
theorem chipStep_next {s t : State} (h : chipStep s = .next t) :
    (s.faulted = true ∧ t = { s with stepResult := none, busReads := [] }) ∨
    (s.faulted = false ∧ inWindow s = false ∧ t = advance { s with busReads := [] }) ∨
    (s.faulted = false ∧ inWindow s = true ∧ 0 ≤ streamAddr s ∧ streamAddr s ≤ 65535 ∧
      ∃ u, exec (nextCode s) (fetched s) = .next u ∧
        t = { u with horizontalCounter := s.horizontalCounter + 1, stepResult := some false }) := by
  by_cases hf : s.faulted = true
  · rw [chipStep_faulted hf] at h
    cases h
    exact .inl ⟨hf, rfl⟩
  · rw [Bool.not_eq_true] at hf
    by_cases hw : inWindow s = true
    · rw [chipStep_visible hf hw] at h
      obtain ⟨u, hu, rfl⟩ := mapNext_eq_next h
      by_cases hr : 0 ≤ streamAddr s ∧ streamAddr s ≤ 65535
      · rw [renderCell_inRange hr.1 hr.2] at hu
        refine .inr (.inr ⟨hf, hw, hr.1, hr.2, u, hu, ?_⟩)
        rw [exec_horizontalCounter hu]
        rfl
      · rw [renderCell_outOfRange (by omega)] at hu
        cases hu
    · rw [Bool.not_eq_true] at hw
      rw [chipStep_blank hf hw] at h
      cases h
      exact .inr (.inl ⟨hf, hw, rfl⟩)

/-- A fault of a STEP is `ADDR_RANGE` of one of its reads. -/
theorem chipStep_fault {s : State} {f : Fault} (h : chipStep s = .fault f) :
    ∃ fetch addr, f = .addrRange fetch addr ∧ (addr < 0 ∨ 65535 < addr) := by
  by_cases hf : s.faulted = true
  · rw [chipStep_faulted hf] at h
    cases h
  · rw [Bool.not_eq_true] at hf
    by_cases hw : inWindow s = true
    · rw [chipStep_visible hf hw] at h
      have hc := mapNext_eq_fault h
      by_cases hr : 0 ≤ streamAddr s ∧ streamAddr s ≤ 65535
      · rw [renderCell_inRange hr.1 hr.2] at hc
        obtain ⟨hg, rfl⟩ := exec_fault hc
        exact ⟨_, _, rfl, .inr hg⟩
      · rw [renderCell_outOfRange (by omega)] at hc
        cases hc
        exact ⟨_, _, rfl, by omega⟩
    · rw [Bool.not_eq_true] at hw
      rw [chipStep_blank hf hw] at h
      cases h

/-! ### Which operation comes next -/

theorem step_idle {s : State} (h : s.schedule = []) : step s = chipStep s := by
  simp only [step, agentStep, h]

theorem step_op {s : State} {op : AgentOp} {rest : List AgentOp} (h : s.schedule = op :: rest) :
    step s = runOp op { s with schedule := rest } := by
  simp only [step, agentStep, h]

/-! ### Runs -/

theorem run_equation (M : Host.Core) (n : Nat) (s : M.State) : M.run (n + 1) s =
    match M.step s with
    | .next u => M.run n u
    | .fault f => .fault f
    | .refused e => .refused e := rfl

/-- A run whose first step answers a next state goes on from it. -/
theorem run_of_step {n : Nat} {s u : State} (h : step s = .next u) :
    core.run (n + 1) s = core.run n u := by
  have hr := run_equation core n s
  rw [show core.step s = .next u from h] at hr
  exact hr

/-- A run that answers a next state made its first step. -/
theorem run_succ_next {n : Nat} {s t : State} (h : core.run (n + 1) s = .next t) :
    ∃ u, step s = .next u ∧ core.run n u = .next t := by
  rw [run_equation core n s] at h
  cases hs : step s with
  | next u => exact ⟨u, rfl, by rw [show core.step s = .next u from hs] at h; exact h⟩
  | fault f =>
    rw [show core.step s = .fault f from hs] at h
    cases h
  | refused e =>
    rw [show core.step s = .refused e from hs] at h
    cases h

end Sys2Proof.Machine
end

