-- ==== Sys2Proof/Laws/Agents.lean ====
section
/-! SUPPORT. What each operation of the agents can do, once, and what the end of a STEP and a stream
code leave alone. -/

namespace Sys2Proof.Machine

theorem buf_congr {s t : State} (h0 : t.buf0 = s.buf0) (h1 : t.buf1 = s.buf1) (b : BufIndex) :
    t.buf b = s.buf b := by
  cases b <;> assumption

/-! ### The end of a STEP -/

/-- What the end of a STEP never writes. -/
theorem advance_environment (s : State) :
    (advance s).mem = s.mem ∧ (advance s).buf0 = s.buf0 ∧ (advance s).buf1 = s.buf1 ∧
    (advance s).schedule = s.schedule ∧ (advance s).faulted = s.faulted ∧
    (advance s).handed = s.handed ∧ (advance s).retired = s.retired ∧
    (advance s).blockId = s.blockId ∧ (advance s).screenWidth = s.screenWidth ∧
    (advance s).screenHeight = s.screenHeight ∧ (advance s).frameCountBits = s.frameCountBits ∧
    (advance s).freeReads = s.freeReads := by
  unfold advance lineWrap lineResetIfAbove frameWrap
  simp only []
  split
  · split <;> split <;> simp
  · simp

/-- What the end of a STEP does to the frame sink: nothing, or the toggle at the frame's last cycle. -/
theorem advance_sink (s : State) :
    ((advance s).activeIndex = s.activeIndex ∧ (advance s).toggles = s.toggles ∧
      (advance s).ready = s.ready ∧ (advance s).pixelCounter = s.pixelCounter ∧
      (advance s).stepResult = some false ∧
      ¬ (s.horizontalCounter = 63 ∧ s.verticalCounter + 1 = s.totalLines)) ∨
    ((advance s).activeIndex = s.activeIndex.other ∧ (advance s).toggles = s.toggles + 1 ∧
      (advance s).ready = true ∧ (advance s).pixelCounter = 0 ∧
      (advance s).stepResult = some true ∧
      (s.horizontalCounter = 63 ∧ s.verticalCounter + 1 = s.totalLines)) := by
  unfold advance lineWrap lineResetIfAbove frameWrap
  simp only [Config.hTotal]
  split
  · split <;> split <;> simp_all
  · left
    simp
    omega

/-! ### The operations -/

/-- What a stream code never writes. -/
theorem exec_environment {i : Instr} {s t : State} (h : exec i s = .next t) :
    t.mem = s.mem ∧ t.schedule = s.schedule ∧ t.activeIndex = s.activeIndex ∧
    t.toggles = s.toggles ∧ t.ready = s.ready ∧ t.handed = s.handed ∧ t.retired = s.retired ∧
    t.blockId = s.blockId ∧ t.screenWidth = s.screenWidth ∧ t.screenHeight = s.screenHeight ∧
    t.frameCountBits = s.frameCountBits ∧ t.frameCount = s.frameCount ∧
    t.windowLine = s.windowLine ∧ t.verticalCounter = s.verticalCounter ∧
    t.faulted = s.faulted := by
  rw [(exec_next h).2.1]
  cases i <;> exact ⟨rfl, rfl, rfl, rfl, rfl, rfl, rfl, rfl, rfl, rfl, rfl, rfl, rfl, rfl, rfl⟩

/-- An accepted RESET is a new block with a legal profile and geometry. -/
theorem resetBlock_next {p : ProfileArg} {w h : Int} {s t : State}
    (hr : resetBlock p w h s = .next t) :
    ∃ pal, p.palFreq = .ok pal ∧ 0 < w ∧ 0 < h ∧ 53760 ≤ w * h ∧
      t = newBlock pal w.toNat h.toNat s := by
  unfold resetBlock at hr
  split at hr
  · cases hr
  · rename_i pal hp
    split at hr
    · cases hr
    · split at hr
      · cases hr
      · rename_i h1 h2
        simp only [Config.framePixels] at h2
        cases hr
        exact ⟨pal, hp, by omega, by omega, by omega, rfl⟩

/-- POLL always answers a next state, and writes three fields at most. -/
theorem poll_next (s : State) : ∃ r p handed,
    poll s = .next { s with ready := r, pollResult := p, handed := handed } := by
  unfold poll
  split
  · exact ⟨_, _, _, rfl⟩
  · split <;> exact ⟨_, _, _, rfl⟩

theorem poll_ready {s : State} (hf : s.faulted = false) (hr : s.ready = true) :
    poll s = .next { s with
      ready := false
      pollResult := some (some s.completedRef)
      handed := s.handed ++ [s.completedRef] } := by
  simp [poll, hf, hr]

/-- DUMP always answers a next state, and writes its result only. -/
theorem dump_next (s : State) : ∃ d, dump s = .next { s with dumpResult := d } := by
  unfold dump
  split <;> exact ⟨_, rfl⟩

/-- A consumer read writes its result and, outside a validity window, the free value's counter. -/
theorem readPixel_next {n off : Nat} {s t : State} (h : readPixel n off s = .next t) :
    ∃ c k, t = { s with readResult := c, freeReads := k } := by
  simp only [readPixel] at h
  split at h
  · cases h
  · split at h
    · cases h
    · split at h
      · cases h
      · split at h
        · cases h
          exact ⟨_, s.freeReads, rfl⟩
        · cases h
          exact ⟨_, _, rfl⟩

theorem sinkOf_current (s : State) : s.sinkOf s.blockId = some s.sinkView := by
  simp [State.sinkOf]

theorem sinkView_buf (s : State) (b : BufIndex) : s.sinkView.buf b = s.buf b := by cases b <;> rfl

/-- When a reference of the running block is inside its validity window. -/
theorem sinkView_valid_iff (s : State) (ref : FrameRef) : s.sinkView.valid ref = true ↔
    s.toggles = ref.toggle ∨ (s.toggles = ref.toggle + 1 ∧ s.pixelCounter = 0) := by
  show (decide (s.toggles = ref.toggle) ||
    (decide (s.toggles = ref.toggle + 1) && decide (s.pixelCounter = 0))) = true ↔ _
  simp

/-- The sink of a new block's predecessor is the one the predecessor had. -/
theorem newBlock_sinkView (pal : Bool) (w h : Nat) (s : State) :
    (newBlock pal w h s).retired = s.retired ++ [s.sinkView] := rfl

/-! ### Runs -/

/-- A run is extended by one step at its end. -/
theorem run_snoc {n : Nat} {s u t : State} (h : core.run n s = .next u) (hs : step u = .next t) :
    core.run (n + 1) s = .next t := by
  induction n generalizing s with
  | zero =>
    cases h
    rw [run_of_step hs]
    rfl
  | succ n ih =>
    obtain ⟨v, hv, h⟩ := run_succ_next h
    rw [run_of_step hv]
    exact ih h

end Sys2Proof.Machine
end

