-- ==== Sys2Proof/Laws/PerInstr.lean ====
section
/-! SUPPORT. Facts about every stream code as syntax, one lemma per constructor. -/

namespace Sys2Proof.Laws.TableRow

/-- The mask and the pattern of the opcode table's row of an instruction. -/
def maskAndPattern : Instr → Byte × Byte
  | .ink _ _ => (0x78#8, 0x00#8)
  | .attr _ _ _ _ => (0x78#8, 0x08#8)
  | .paper _ _ => (0x78#8, 0x10#8)
  | .mode _ _ _ _ => (0x78#8, 0x18#8)
  | .data1 _ _ => (0x60#8, 0x20#8)
  | .data2 _ _ => (0x60#8, 0x40#8)
  | .data3 _ _ => (0x60#8, 0x60#8)

/-- A well-formed instruction is encoded as one byte that matches its row of the opcode table. -/
def Statement (i : Instr) : Prop :=
  i.wellFormed = true → encode i = [encodeByte i] ∧
    encodeByte i &&& (maskAndPattern i).1 = (maskAndPattern i).2

theorem ink : ∀ (r : Bool) (c : Colour), Statement (.ink r c) := by
  intro r c _
  exact ⟨rfl, by revert r c; decide⟩

theorem attr : ∀ (r b d a : Bool), Statement (.attr r b d a) := by
  intro r b d a _
  exact ⟨rfl, by revert r b d a; decide⟩

theorem paper : ∀ (r : Bool) (c : Colour), Statement (.paper r c) := by
  intro r c _
  exact ⟨rfl, by revert r c; decide⟩

theorem mode : ∀ (r h f x : Bool), Statement (.mode r h f x) := by
  intro r h f x _
  exact ⟨rfl, by revert r h f x; decide⟩

theorem data1 : ∀ (r : Bool) (code : BitVec 7), Statement (.data1 r code) := by
  intro r code hw
  exact ⟨rfl, by revert r code; decide⟩

theorem data2 : ∀ (r : Bool) (code : BitVec 7), Statement (.data2 r code) := by
  intro r code hw
  exact ⟨rfl, by revert r code; decide⟩

theorem data3 : ∀ (r : Bool) (code : BitVec 7), Statement (.data3 r code) := by
  intro r code hw
  exact ⟨rfl, by revert r code; decide⟩

end Sys2Proof.Laws.TableRow
end

