-- ==== Sys2Proof/Tests/Slice0.lean ====
section
/-! SUPPORT. Small tests of the model against vectors of spec/, and a witness for the hypotheses of every
statement that has some. Expected values are the spec's: each test names its vector or rule. -/

namespace Sys2Proof.Tests

open Sys2Proof.Machine

/-! ### WellFormed refuses a data code of another class (30_encoding.md R66, R73) -/

theorem test_data1_of_class2_refused : (Instr.data1 false 0x41#7).wellFormed = false := by decide
theorem test_data2_of_class3_refused : (Instr.data2 true 0x7F#7).wellFormed = false := by decide
theorem test_data3_of_class1_refused : (Instr.data3 false 0x20#7).wellFormed = false := by decide
theorem test_data1_of_class0_refused : (Instr.data1 false 0x1F#7).wellFormed = false := by decide

/-! ### Words written out from the encodings of 30_encoding.md R69 to R73 -/

theorem test_decode_ink : decodeTableWord 8 0b10000101 = some (.ink true 5#3) := by decide
theorem test_decode_attr : decodeTableWord 8 0b00001100 = some (.attr false true false false) := by
  decide
theorem test_decode_paper : decodeTableWord 8 0b00010100 = some (.paper false 4#3) := by decide
theorem test_decode_mode : decodeTableWord 8 0b10011011 = some (.mode true false true true) := by
  decide
theorem test_decode_data1 : decodeTableWord 8 0b00101010 = some (.data1 false 0b0101010#7) := by
  decide
theorem test_decode_data2 : decodeTableWord 8 0b11000001 = some (.data2 true 0b1000001#7) := by
  decide
theorem test_decode_data3 : decodeTableWord 8 0b01111111 = some (.data3 false 0b1111111#7) := by
  decide
theorem test_decode_no_byte : decode [] = .error .noByte := by decide

/-! ### One cell of each code -/

/-- The start of the cell in column 0 of visible line `w`, in text mode, after the per-line reset. -/
def textCell (w : Nat) : State :=
  { State.reset with
    horizontalCounter := 12
    verticalCounter := w + 9
    windowLine := w
    charline := w % 8
    lineAddr := lineAddrOf true w
    pixelCounter := w * 240 }

/-- The same in hires rendering, with red ink and blue paper (indices 1 and 4). -/
def hiresCell (w : Nat) : State :=
  { textCell w with
    hiresMode := true
    textMode := false
    charsetBase := 0x9800
    charsetAddr := 0x9800
    lineAddr := lineAddrOf false w
    ink := 1#3
    paper := 4#3 }

/-- What `f` gives on the next state of a result, if there is one. -/
def onNext {α : Type} (f : State → α) : Result → Option α
  | .next s => some (f s)
  | .fault _ => none
  | .refused _ => none

/-- The six pixels of the cell just drawn in buffer 0, leftmost first. -/
def cell (s : State) : List (Option Colour) :=
  [6, 5, 4, 3, 2, 1].map (fun k => Pixels.stored s.buf0 (s.pixelCounter - k))

/-- Six stored pixels. -/
def six (a b c d e f : Colour) : List (Option Colour) :=
  [some a, some b, some c, some d, some e, some f]

/-- 95_test_vectors.md 3.4, code 0x81. -/
theorem test_ink_reversed : onNext (fun t => (t.ink, t.paper, cell t))
    (exec (.ink true 1#3) (textCell 0)) = some (1#3, 0#3, six 1 1 1 1 1 1) := by decide

/-- 95_test_vectors.md 3.4, code 0x00. -/
theorem test_ink_zero : onNext (fun t => (t.ink, t.paper, cell t))
    (exec (.ink false 0#3) (textCell 0)) = some (0#3, 0#3, six 0 0 0 0 0 0) := by decide

/-- 95_test_vectors.md 3.4, code 0x14. -/
theorem test_paper_in_its_own_cell : onNext (fun t => (t.ink, t.paper, cell t))
    (exec (.paper false 4#3) (textCell 0)) = some (7#3, 4#3, six 4 4 4 4 4 4) := by decide

/-- 95_test_vectors.md 3.4, code 0x94. -/
theorem test_paper_reversed : onNext (fun t => (t.ink, t.paper, cell t))
    (exec (.paper true 4#3) (textCell 0)) = some (7#3, 4#3, six 7 7 7 7 7 7) := by decide

/-- 95_test_vectors.md 3.5, row 1: windowLine 13, frameCount 16, code 0x0F. -/
theorem test_attr_all_set : onNext
    (fun t => (t.charset, t.charsetAddr, t.doubleHeight, t.charline, t.blink, t.blinkMask))
    (exec (.attr false true true true) { textCell 13 with frameCount := 16 }) =
      some (1#1, 0xB800, true, 6, true, 0#6) := by decide

/-- 95_test_vectors.md 3.5, row 9: blink off although frameCount bit 4 is set, code 0x08. -/
theorem test_attr_all_clear : onNext
    (fun t => (t.charset, t.charsetAddr, t.doubleHeight, t.charline, t.blink, t.blinkMask))
    (exec (.attr false false false false)
      { textCell 13 with frameCount := 16, blinkMask := 0#6, blink := true }) =
      some (0#1, 0xB400, false, 5, false, 63#6) := by decide

/-- 95_test_vectors.md 3.6, V-M5: the charset is kept, code 0x1C. -/
theorem test_mode_keeps_charset : onNext (fun t => ((t.palFreq, t.totalLines, t.hiresMode),
      (t.charsetBase, t.charsetAddr, t.textMode, t.lineAddr)))
    (exec (.mode false true false false) { textCell 0 with charset := 1#1, charsetAddr := 0xB800 }) =
      some ((false, 264, true), (0x9800, 0x9C00, false, 0xA000)) := by decide

/-- 95_test_vectors.md 3.6, V-M3: text mode stays forced on line 200, code 0x1E. -/
theorem test_mode_on_line_200 : onNext (fun t => ((t.palFreq, t.totalLines, t.hiresMode),
      (t.charsetBase, t.charsetAddr, t.textMode, t.lineAddr)))
    (exec (.mode false true true false) (textCell 200)) =
      some ((true, 312, true), (0x9800, 0x9800, true, 0xBF68)) := by decide

/-- 95_test_vectors.md 3.7, V-C3: scenario B reversed, code 0xAA. -/
theorem test_data1_reversed : onNext (fun t => (t.ink, t.paper, cell t))
    (exec (.data1 true 0x2A#7) (hiresCell 0)) = some (1#3, 4#3, six 4 1 4 1 4 1) := by decide

/-- 95_test_vectors.md 3.7, V-C11: the leftmost dot is bit 5, code 0x20. -/
theorem test_data1_leftmost_dot : onNext cell
    (exec (.data1 false 0x20#7) { hiresCell 0 with ink := 7#3, paper := 0#3 }) =
      some (six 7 0 0 0 0 0) := by decide

/-- 95_test_vectors.md 3.7, V-C1: a glyph's byte 0x22 at 0xB400 + 0x41 * 8 + 2, code 0x41. -/
theorem test_data2_glyph : onNext cell
    (exec (.data2 false 0x41#7) { textCell 2 with mem := [(0xB60A, 0x22#8)] }) =
      some (six 7 0 0 0 7 0) := by decide

/-- 95_test_vectors.md 3.7, V-C2: the same glyph reversed, code 0xC1. -/
theorem test_data2_glyph_reversed : onNext cell
    (exec (.data2 true 0x41#7) { textCell 2 with mem := [(0xB60A, 0x22#8)] }) =
      some (six 0 7 7 7 0 7) := by decide

/-- 95_test_vectors.md 3.7, V-C4: code 0x6A. -/
theorem test_data3_dots : onNext cell (exec (.data3 false 0x6A#7) (hiresCell 0)) =
      some (six 1 4 1 4 1 4) := by decide

/-- 95_test_vectors.md 3.7, V-C8: suppressed by the mask and reversed, code 0xFF. -/
theorem test_data3_suppressed_reversed : onNext cell
    (exec (.data3 true 0x7F#7) { hiresCell 0 with blinkMask := 0#6 }) =
      some (six 1 1 1 1 1 1) := by decide

/-! ### The raster, the sink and the host operations -/

/-- 95_test_vectors.md 3.1, step 64. -/
theorem test_first_line_wrap : onNext
    (fun t => (t.horizontalCounter, t.verticalCounter, t.windowLine, t.lineAddr, t.charline))
    (step { State.reset with horizontalCounter := 63 }) = some (0, 1, -8, 0xBB58, 0) := by decide

/-- 95_test_vectors.md 3.1, step 589: the reads of the first cell. -/
theorem test_first_cell_reads : onNext (fun t => (t.busReads, t.pixelCounter))
    (step { textCell 0 with mem := [(0xBB80, 0x20#8)] }) =
      some ([⟨.stream, 0xBB80⟩, ⟨.glyph, 0xB500⟩], 6) := by decide

/-- 95_test_vectors.md 3.1, step 14912: no per-line reset at the wrap into line 224. -/
theorem test_wrap_into_line_224 : onNext
    (fun t => (t.verticalCounter, t.windowLine, t.lineAddr, t.charline, t.ink))
    (step { textCell 223 with horizontalCounter := 63, ink := 1#3 }) =
      some (233, 224, 0xBFB8, 7, 1#3) := by decide

/-- 95_test_vectors.md 3.1, step 19968, and V-S2: the frame is exposed by its last step. -/
theorem test_frame_complete : onNext (fun t => (t.stepResult, t.verticalCounter, t.frameCount,
      t.activeIndex, t.ready))
    (step { State.reset with horizontalCounter := 63, verticalCounter := 311 }) =
      some (some true, 0, 1, .one, true) := by decide

/-- 95_test_vectors.md V-S1. -/
theorem test_poll_after_reset : onNext (·.pollResult) (poll State.reset) = some (some none) := by
  decide

/-- 95_test_vectors.md V-S5, the counters after 700 steps. -/
theorem test_dump : onNext (·.dumpResult)
    (dump { State.reset with horizontalCounter := 60, verticalCounter := 10 }) =
      some (some ⟨0, 60, 10⟩) := by decide

/-- 95_test_vectors.md V-R4 and V-R6. -/
theorem test_reset_refusals :
    (match resetBlock .pal312 240 223 State.reset with | .fault f => some f.code | _ => none) =
      some 2 ∧
    (match resetBlock (.other 7) 0 0 State.reset with | .fault f => some f.code | _ => none) =
      some 3 := by decide

/-- 95_test_vectors.md V-R7. -/
theorem test_memRead_65536 :
    (match memRead .stream 65536 State.reset with | .error f => some f | _ => none) =
      some (.addrRange .stream 65536) := by decide

/-- The word placed after reset is the code the very next step runs: MODE 6, 95_test_vectors.md P1. -/
theorem test_placed_word_runs : onNext (fun t => (t.hiresMode, t.textMode, t.charsetAddr))
    (step (State.reset.withFetchWord 8 0x1E)) = some (true, false, 0x9800) := by decide

/-! ### States that meet the invariants -/

/-- A buffer with a pixel at every offset below `n`. -/
def fullBelow : Nat → Pixels
  | 0 => []
  | n + 1 => (n, 0#3) :: fullBelow n

theorem fullBelow_stored {n off : Nat} (h : off < n) :
    (Pixels.stored (fullBelow n) off).isSome = true := by
  induction n with
  | zero => omega
  | succ n ih =>
    simp only [fullBelow, Pixels.stored]
    split
    · rfl
    · exact ih (by omega)

theorem fullBelow_wf (n : Nat) : ∀ hi, n ≤ hi → Pixels.wfBelow hi (fullBelow n) = true := by
  induction n with
  | zero => exact fun _ _ => rfl
  | succ n ih =>
    intro hi h
    simp only [fullBelow, Pixels.wfBelow, Bool.and_eq_true, decide_eq_true_eq]
    exact ⟨by omega, ih n (Nat.le_refl n)⟩

/-- The offset of the next store at a raster position. -/
def storesAt (hc vc : Nat) : Nat := (pixelsDrawn ((vc : Int) - 9) hc).toNat

/-- A running text-mode block with memory `m`, after `n` toggles, on entry to cycle `hc` of line `vc`,
whose consumer polled the first completed frame if there is one. -/
def rasterAt (m : Memory) (n hc vc : Nat) : State :=
  { State.reset with
    horizontalCounter := hc
    verticalCounter := vc
    windowLine := (vc : Int) - 9
    lineAddr := if vc < 233 then lineAddrOf true ((vc : Int) - 9) else 0xBFB8
    charline := if vc < 233 then lineAnd7 ((vc : Int) - 9) else 7
    pixelCounter := storesAt hc vc
    frameCount := n
    buf0 := fullBelow (if n = 0 then storesAt hc vc else 53760)
    buf1 := fullBelow (if n = 0 then 0 else if n = 1 then storesAt hc vc else 53760)
    activeIndex := activeAfter n
    ready := decide (n = 1)
    mem := m
    toggles := n
    handed := if n = 0 then [] else [⟨0, .zero, 1⟩] }

theorem storesAt_le (hc vc : Nat) : storesAt hc vc ≤ 53760 := by
  unfold storesAt pixelsDrawn
  split_ifs <;> omega

theorem rasterAt_params (m : Memory) {n hc vc : Nat} (hn : n ≤ 2) :
    ParamInv (rasterAt m n hc vc) :=
  ⟨by show 53760 ≤ 240 * 224; decide, by show 5 ≤ 32; decide, by show n < 2 ^ 32; omega⟩

theorem rasterAt_raster (m : Memory) {n hc vc : Nat} (hh : hc ≤ 63) (hv : vc < 312) :
    RasterInv (rasterAt m n hc vc) := by
  refine ⟨hh, hv, rfl, ?_, ?_, ?_, fun h => ?_, fun h => ?_, fun h => ?_, fun h => ?_, ?_,
    ?_, ?_⟩
  · show true = (!false || _)
    rfl
  · show 0xB400 = if false = true then 0x9800 else 0xB400
    decide
  · show 0xB400 = 0xB400 + (0#1).toNat * 1024
    decide
  · have h : (vc : Int) - 9 < 224 := h
    exact (congrArg Nat.cast (if_pos (show vc < 233 by omega))).trans (charline_eq false _)
  · have h : 224 ≤ (vc : Int) - 9 := h
    exact if_neg (show ¬ vc < 233 by omega)
  · have h : (vc : Int) - 9 < 224 := h
    exact (if_pos (show vc < 233 by omega)).trans (lineAddrOf_eq true ((vc : Int) - 9))
  · have h : 224 ≤ (vc : Int) - 9 := h
    exact if_neg (show ¬ vc < 233 by omega)
  · show 63#6 = if (false && _) = true then 0#6 else 63#6
    rfl
  · show ((storesAt hc vc : Nat) : Int) = pixelsDrawn ((vc : Int) - 9) hc
    unfold storesAt pixelsDrawn
    split_ifs <;> omega
  · show 312 = if true = true then 312 else 264
    decide

theorem rasterAt_sink (m : Memory) {n hc vc : Nat} (hn : n ≤ 2) : SinkInv (rasterAt m n hc vc) := by
  have hp := storesAt_le hc vc
  match n, hn with
  | 0, _ => exact ⟨fullBelow_wf _ _ hp, rfl, rfl, fun off h => fullBelow_stored h,
      fun h => absurd h (Nat.not_succ_le_zero 0), fun h => absurd h (Nat.not_succ_le_zero 1),
      fun h => Bool.noConfusion h⟩
  | 1, _ => exact ⟨fullBelow_wf _ _ (Nat.le_refl _), fullBelow_wf _ _ hp, rfl,
      fun off h => fullBelow_stored h, fun _ off h => fullBelow_stored h,
      fun h => absurd (Nat.le_of_succ_le_succ h) (Nat.not_succ_le_zero 0), fun _ => Nat.le_refl 1⟩
  | 2, _ =>
    refine ⟨fullBelow_wf _ _ (Nat.le_refl _), fullBelow_wf _ _ (Nat.le_refl _), ?_, ?_,
      fun _ off h => fullBelow_stored h, fun _ off h => fullBelow_stored h,
      fun h => Bool.noConfusion h⟩
    · show activeAfter 2 = activeAfter 2
      rfl
    · exact fun off h => fullBelow_stored (Nat.lt_of_lt_of_le h hp)

theorem rasterAt_handed (m : Memory) {n hc vc : Nat} (hn : n ≤ 2) :
    HandedInv (rasterAt m n hc vc) := by
  have hr : ∀ ref ∈ (rasterAt m n hc vc).handed, 1 ≤ n ∧ ref = ⟨0, .zero, 1⟩ := by
    intro ref h
    by_cases h0 : n = 0
    · simp [rasterAt, h0] at h
    · simp [rasterAt, h0] at h
      exact ⟨by omega, h⟩
  refine ⟨fun ref h _ => ?_, fun v h => by simp [rasterAt, State.reset, State.fresh] at h,
    fun ref h => ?_, fun ref h v hv _ => ?_⟩
  · obtain ⟨h1, rfl⟩ := hr ref h
    exact ⟨Nat.le_refl _, h1, rfl⟩
  · obtain ⟨h1, rfl⟩ := hr ref h
    exact ⟨_, sinkOf_current _, rfl⟩
  · obtain ⟨h1, rfl⟩ := hr ref h
    have hs := sinkOf_current (rasterAt m n hc vc)
    rw [show (rasterAt m n hc vc).blockId = 0 from rfl] at hs
    rw [hs] at hv
    cases hv
    refine ⟨fun off ho => ?_, by show 53760 ≤ 240 * 224; decide⟩
    show (Pixels.stored (fullBelow (if n = 0 then storesAt hc vc else 53760)) off).isSome = true
    rw [if_neg (by omega)]
    exact fullBelow_stored ho

theorem rasterAt_inv {m : Memory} {n hc vc : Nat} (hm : m.wf = true) (hn : n ≤ 2) (hh : hc ≤ 63)
    (hv : vc < 312) : MachineInv (rasterAt m n hc vc) :=
  ⟨rasterAt_raster m hh hv, rasterAt_params m hn, rasterAt_sink m hn, rasterAt_handed m hn, hm⟩

/-! ### Witnesses: states and operands that meet the hypotheses of each statement -/

theorem next_of_onNext {r : Result} (h : onNext (fun _ => ()) r = some ()) : ∃ t, r = .next t := by
  cases r with
  | next t => exact ⟨t, rfl⟩
  | fault f => cases h
  | refused e => cases h

/-- The last cell of a frame: pixel offsets 53754 to 53759. -/
def lastCell : State := { textCell 223 with horizontalCounter := 51, pixelCounter := 53754 }

/-- The end of line `vc` of a frame of 312 lines. -/
def lineEnd (vc : Nat) : State :=
  { State.reset with horizontalCounter := 63, verticalCounter := vc, windowLine := (vc : Int) - 9 }

theorem cellReady_textCell (b : Byte) : CellReady b (textCell 0) := by
  unfold CellReady
  revert b
  decide
theorem cellReady_lastCell (b : Byte) : CellReady b lastCell := by
  unfold CellReady
  revert b
  decide
theorem cellReady_hiresCell (b : Byte) : CellReady b (hiresCell 0) := by
  unfold CellReady
  revert b
  decide

/-- Every code runs on a text cell. -/
theorem code_runs (i : Instr) : ∃ t, exec i (textCell 0) = .next t :=
  (exec_ready i (cellReady_textCell _)).imp fun _ h => h.1

theorem witness_DecodeOfEncodeIsTheInstruction :
    (Instr.ink true 7#3).wellFormed = true ∧ (Instr.data1 false 0x3F#7).wellFormed = true ∧
    (Instr.data2 false 0x40#7).wellFormed = true ∧ (Instr.data3 true 0x7F#7).wellFormed = true := by
  decide

/-- The first and the last visible cell, at stream addresses 0 and 65535. -/
theorem witness_StepRunsTheDecodedInstruction :
    ∀ s ∈ [{ textCell 0 with lineAddr := 0 }, { lastCell with lineAddr := 65496 }],
      s.schedule = [] ∧ s.faulted = false ∧ 12 ≤ s.horizontalCounter ∧ s.horizontalCounter ≤ 51 ∧
      0 ≤ s.windowLine ∧ s.windowLine ≤ 223 ∧ 0 ≤ streamAddr s ∧ streamAddr s ≤ 65535 ∧
      decode [s.mem.read (streamAddr s).toNat] = .ok (.ink false 0#3, []) := by decide

theorem witness_PlacedCodeRunsAtTheNextStep : State.reset.mem.wf = true ∧ 255 < 256 := by decide

theorem witness_StepPerformsTheOldestOperation :
    State.reset.schedule = [] ∧
    { State.reset with schedule := [.poll, .step] }.schedule = AgentOp.poll :: [.step] := by decide

theorem witness_InkSetsInkUntilTheLineEnds :
    CellReady (encodeByte (.ink true 1#3)) (textCell 0) ∧
    CellReady (encodeByte (.ink false 7#3)) lastCell ∧
    (∀ r c, Instr.paper false 4#3 ≠ .ink r c) ∧ (∃ t, exec (.paper false 4#3) (textCell 0) = .next t) ∧
    (textCell 0).horizontalCounter ≠ 63 ∧ (lineEnd 231).horizontalCounter = 63 ∧
    (lineEnd 231).verticalCounter + 1 < 233 :=
  ⟨cellReady_textCell _, cellReady_lastCell _, by decide, code_runs _, by decide, by decide,
    by decide⟩

theorem witness_PaperSetsPaperUntilTheLineEnds :
    CellReady (encodeByte (.paper true 4#3)) (textCell 0) ∧
    CellReady (encodeByte (.paper false 7#3)) lastCell ∧
    (∀ r c, Instr.ink false 1#3 ≠ .paper r c) ∧ (∃ t, exec (.ink false 1#3) (textCell 0) = .next t) ∧
    (textCell 0).horizontalCounter ≠ 63 ∧ (lineEnd 231).horizontalCounter = 63 ∧
    (lineEnd 231).verticalCounter + 1 < 233 :=
  ⟨cellReady_textCell _, cellReady_lastCell _, by decide, code_runs _, by decide, by decide,
    by decide⟩

theorem witness_AttrSetsItsSixRegistersUntilTheLineEnds :
    CellReady (encodeByte (.attr true true true true)) (textCell 0) ∧
    CellReady (encodeByte (.attr false false false false)) lastCell ∧
    (∀ r b d a, Instr.ink false 1#3 ≠ .attr r b d a) ∧
    (∀ r h f x, Instr.ink false 1#3 ≠ .mode r h f x) ∧
    (∃ t, exec (.ink false 1#3) (textCell 0) = .next t) ∧
    (textCell 0).horizontalCounter ≠ 63 ∧ (lineEnd 231).horizontalCounter = 63 ∧
    (lineEnd 231).verticalCounter + 1 < 233 :=
  ⟨cellReady_textCell _, cellReady_lastCell _, by decide, by decide, code_runs _, by decide,
    by decide, by decide⟩

theorem witness_ModeSetsItsSevenRegisters :
    CellReady (encodeByte (.mode true true true true)) (textCell 0) ∧
    CellReady (encodeByte (.mode false false false false)) lastCell ∧
    (∀ r h f x, Instr.data1 false 0x20#7 ≠ .mode r h f x) ∧
    (∃ t, exec (.data1 false 0x20#7) (textCell 0) = .next t) ∧
    AgentOp.poll ≠ .step ∧ (∀ p w h, AgentOp.poll ≠ .reset p w h) ∧
    (∃ t, runOp .poll State.reset = .next t) :=
  ⟨cellReady_textCell _, cellReady_lastCell _, by simp, code_runs _, by decide, by simp,
    poll_next _ |>.elim fun _ h => h.elim fun _ h => h.elim fun _ h => ⟨_, h⟩⟩

theorem witness_DataCodeDrawsItsMaskedDots :
    CellReady (encodeByte (.data1 false 0x20#7)) (textCell 0) ∧
    CellReady (encodeByte (.data2 true 0x5F#7)) lastCell ∧
    CellReady (encodeByte (.data3 false 0x7F#7)) (hiresCell 0) :=
  ⟨cellReady_textCell _, cellReady_lastCell _, cellReady_hiresCell _⟩

/-- Both phases of the blink mask, before and after an ATTR. -/
theorem witness_BlinkShowsAndSuppressesSixteenFramesEach :
    CellReady (encodeByte (.attr false true false false)) (textCell 0) ∧
    CellReady (encodeByte (.attr true true true true)) lastCell ∧
    (∀ r b d a, Instr.ink false 1#3 ≠ .attr r b d a) ∧
    (∃ t, exec (.ink false 1#3) (textCell 0) = .next t) ∧
    (lineEnd 231).horizontalCounter = 63 ∧ (lineEnd 231).verticalCounter + 1 < 233 ∧
    CellReady (encodeByte (.data1 false 0x20#7)) { textCell 0 with blinkMask := 0#6 } ∧
    (textCell 0).horizontalCounter ≠ 63 ∧ (textCell 0).blinkMask = 63#6 :=
  ⟨cellReady_textCell _, cellReady_lastCell _, by decide, code_runs _, by decide, by decide,
    cellReady_textCell _, by decide, by decide⟩

theorem witness_ReverseVideoExchangesInkAndPaper :
    CellReady (encodeByte (.data1 true 0x20#7)) (textCell 0) ∧
    CellReady (encodeByte (.data2 true 0x40#7)) lastCell ∧
    CellReady (encodeByte (.data3 true 0x7F#7)) (hiresCell 0) :=
  ⟨cellReady_textCell _, cellReady_lastCell _, cellReady_hiresCell _⟩

/-- A glyph address of 65536, and one pixel too little room. -/
theorem witness_CellStopsOnMissingAddressOrPixel :
    (textCell 0).textMode = true ∧
    65535 < glyphAddr (encodeByte (.ink false 0#3)) { textCell 0 with charsetAddr := 65536 } ∧
    glyphAddr (encodeByte (.ink false 0#3)) lastCell ≤ 65535 ∧
    lastCell.screenWidth * lastCell.screenHeight <
      { lastCell with pixelCounter := 53755 }.pixelCounter + 6 := by decide

theorem witness_StreamCodesTouchOnlyTheirRegisters :
    ∃ t, exec (.attr false true true true) (textCell 0) = .next t := code_runs _

theorem witness_MemReadGivesTheByteOrFaults :
    (0 : Int) ≤ 0 ∧ (65535 : Int) ≤ 65535 ∧ (-1 : Int) < 0 ∧ (65535 : Int) < 65536 := by decide

/-- A blank cycle, a cell in hires rendering and a cell in text mode. -/
theorem witness_ReadsOfOneStepInOrder :
    (State.reset.faulted = false ∧ inWindow State.reset = false ∧
      ∃ t, chipStep State.reset = .next t) ∧
    (inWindow (hiresCell 0) = true ∧ (hiresCell 0).textMode = false ∧
      ∃ t, chipStep (hiresCell 0) = .next t) ∧
    (inWindow (textCell 0) = true ∧ (textCell 0).textMode = true ∧
      ∃ t, chipStep (textCell 0) = .next t) :=
  ⟨⟨by decide, by decide, next_of_onNext (by decide)⟩,
    ⟨by decide, by decide, next_of_onNext (by decide)⟩,
    ⟨by decide, by decide, next_of_onNext (by decide)⟩⟩

theorem witness_BusWriteChangesOneByte :
    Memory.wf [(0, 1#8), (65535, 0xFF#8)] = true := by decide

theorem witness_OnlyTheProcessorWritesTheBus :
    (∀ a v, AgentOp.step ≠ .busWrite a v) ∧ (∃ t, runOp .step (textCell 0) = .next t) ∧
    (∃ t, runOp .poll State.reset = .next t) ∧
    ∃ t, runOp (.readPixel 0 53759) (rasterAt [] 1 0 0) = .next t :=
  ⟨by simp, next_of_onNext (by decide), next_of_onNext (by decide), ⟨_, rfl⟩⟩

theorem witness_EmitCellStoresSixDotsInBitOrder :
    (textCell 0).pixelCounter + 6 ≤ (textCell 0).screenWidth * (textCell 0).screenHeight ∧
    lastCell.pixelCounter + 6 = lastCell.screenWidth * lastCell.screenHeight := by decide

theorem witness_CounterAdvancesByOneWithinALine :
    { lineEnd 8 with horizontalCounter := 62 }.horizontalCounter ≤ 62 ∧
    inWindow { lineEnd 8 with horizontalCounter := 62 } = false ∧
    (textCell 0).schedule = [] ∧ (textCell 0).faulted = false ∧
    (textCell 0).horizontalCounter ≤ 62 ∧ inWindow (textCell 0) = true ∧
    ∃ u, renderCell { textCell 0 with busReads := [] } = .next u :=
  ⟨by decide, by decide, by decide, by decide, by decide, by decide, next_of_onNext (by decide)⟩

/-- The wraps into lines 223 and 224 of the window. -/
theorem witness_LineWrapResetsLineStateBelowLine224 :
    (lineEnd 231).schedule = [] ∧ (lineEnd 231).faulted = false ∧
    (lineEnd 231).horizontalCounter = 63 ∧
    (lineEnd 231).verticalCounter + 1 ≠ (lineEnd 231).totalLines ∧
    (lineEnd 231).verticalCounter + 1 < 233 ∧ 233 ≤ (lineEnd 232).verticalCounter + 1 ∧
    (lineEnd 232).verticalCounter + 1 ≠ (lineEnd 232).totalLines := by decide

/-- The wraps into lines 200, 207, 208, 215, 216 and 223, and a MODE code on line 200. -/
theorem witness_LineTwoHundredForcesText :
    (∀ s ∈ [lineEnd 208, lineEnd 209, lineEnd 215, lineEnd 216, lineEnd 223, lineEnd 224,
        lineEnd 231], s.schedule = [] ∧ s.faulted = false ∧ s.horizontalCounter = 63 ∧
      s.verticalCounter + 1 < 233 ∧ s.verticalCounter + 1 ≠ s.totalLines ∧ s.textMode = true) ∧
    200 ≤ (textCell 200).windowLine ∧
    CellReady (encodeByte (.mode false true true false)) (textCell 200) :=
  ⟨by decide, by decide, by unfold CellReady; decide⟩

theorem witness_LineAddrSharesARowAmongEightLines :
    (0 : Int) ≤ 0 ∧ (0 : Int) < 8 ∧ (0 : Int) ≤ 7 ∧ (7 : Int) < 8 := by decide

/-- The last cycles of a frame of 312 and of one of 264 lines. -/
theorem witness_FrameWrapStartsTheNextFrameAndToggles :
    ∀ s ∈ [lineEnd 311, { lineEnd 263 with palFreq := false, totalLines := 264 }],
      s.schedule = [] ∧ s.faulted = false ∧ s.horizontalCounter = 63 ∧
      s.verticalCounter + 1 = s.totalLines ∧ 233 ≤ s.totalLines := by decide

/-- The memory of the witnesses that need one: the data code 0x20 at the start of the screen. -/
def oneByte : Memory := [(0xBB80, 0x20#8)]

theorem oneByte_noMode (a : Nat) (r h f x : Bool) : decodeByte (oneByte.read a) ≠ .mode r h f x := by
  have hb : oneByte.read a = 0x20#8 ∨ oneByte.read a = 0#8 := by
    simp only [oneByte, Memory.read, Memory.unlisted]
    split
    · exact .inl rfl
    · exact .inr rfl
  rcases hb with hb | hb <;> rw [hb] <;> simp [decodeByte, decodeControl, fieldK, fieldG]

theorem advance_totalLines (s : State) : (advance s).totalLines = s.totalLines := by
  unfold advance lineWrap lineResetIfAbove frameWrap
  simp only []
  split
  · split <;> split <;> simp
  · simp

/-- A step over that memory leaves the line count as it is. -/
theorem step_oneByte {s t : State} (hm : s.mem = oneByte) (hs : s.schedule = [])
    (h : step s = .next t) : t.mem = oneByte ∧ t.schedule = [] ∧ t.totalLines = s.totalLines := by
  rw [step_idle hs] at h
  rcases chipStep_next h with ⟨-, rfl⟩ | ⟨-, -, rfl⟩ | ⟨-, -, -, -, u, hu, rfl⟩
  · exact ⟨hm, hs, rfl⟩
  · have he := advance_environment { s with busReads := [] }
    exact ⟨he.1.trans hm, he.2.2.2.1.trans hs, advance_totalLines _⟩
  · have he := exec_environment hu
    refine ⟨he.1.trans hm, he.2.1.trans hs, ?_⟩
    show u.totalLines = s.totalLines
    rw [(exec_next hu).2.1]
    cases hc : nextCode s with
    | mode r h f x => exact absurd hc (by rw [nextCode, hm]; exact oneByte_noMode _ r h f x)
    | _ => rfl

theorem run_oneByte (n : Nat) : ∀ s t, s.mem = oneByte → s.schedule = [] →
    core.run n s = .next t → t.totalLines = s.totalLines := by
  induction n with
  | zero =>
    intro s t _ _ h
    cases h
    rfl
  | succ n ih =>
    intro s t hm hs h
    obtain ⟨u, hu, h⟩ := run_succ_next h
    have hk := step_oneByte hm hs hu
    rw [ih u t hk.1 hk.2.1 h, hk.2.2]

theorem freshFrame_oneByte : FreshFrame (rasterAt oneByte 1 0 0) :=
  ⟨rasterAt_inv (by decide) (by decide) (by decide) (by decide), rfl, rfl, rfl, rfl⟩

/-- Entry to the last cycle and to another, and a fresh frame start whose line count stays. -/
theorem witness_FrameCompleteExactlyInTheLastCycle :
    MachineInv (rasterAt oneByte 1 63 311) ∧ MachineInv (rasterAt oneByte 0 62 311) ∧
    (rasterAt oneByte 1 63 311).schedule = [] ∧ (rasterAt oneByte 1 63 311).faulted = false ∧
    FreshFrame (rasterAt oneByte 1 0 0) ∧
    ∀ n < 64 * (rasterAt oneByte 1 0 0).totalLines, ∀ t,
      core.run n (rasterAt oneByte 1 0 0) = .next t →
        t.totalLines = (rasterAt oneByte 1 0 0).totalLines :=
  ⟨rasterAt_inv (by decide) (by decide) (by decide) (by decide),
    rasterAt_inv (by decide) (by decide) (by decide) (by decide), rfl, rfl, freshFrame_oneByte,
    fun n _ t h => run_oneByte n _ t rfl rfl h⟩

theorem witness_CountersHaveClosedFormInAFrame :
    FreshFrame (rasterAt oneByte 1 0 0) ∧
    ∀ n < 64 * (rasterAt oneByte 1 0 0).totalLines, ∀ t,
      core.run n (rasterAt oneByte 1 0 0) = .next t →
        t.totalLines = (rasterAt oneByte 1 0 0).totalLines :=
  ⟨freshFrame_oneByte, fun n _ t h => run_oneByte n _ t rfl rfl h⟩

/-- MODE 6 in the first cell of the screen, as in program P1 of 95_test_vectors.md. -/
theorem witness_ModeInMidLineKeepsTheColumn :
    MachineInv (rasterAt [(0xBB80, 0x1E#8)] 0 12 9) ∧
    (rasterAt [(0xBB80, 0x1E#8)] 0 12 9).schedule = [] ∧
    (rasterAt [(0xBB80, 0x1E#8)] 0 12 9).faulted = false ∧
    inWindow (rasterAt [(0xBB80, 0x1E#8)] 0 12 9) = true ∧
    (rasterAt [(0xBB80, 0x1E#8)] 0 12 9).mem.read
      (streamAddr (rasterAt [(0xBB80, 0x1E#8)] 0 12 9)).toNat =
        encodeByte (.mode false true true false) :=
  ⟨rasterAt_inv (by decide) (by decide) (by decide) (by decide), rfl, rfl, by decide, by decide⟩

theorem witness_StepKeepsTheRasterInvariant :
    RasterInv (rasterAt oneByte 0 12 9) ∧ ParamInv (rasterAt oneByte 0 12 9) ∧
    ∃ t, step (rasterAt oneByte 0 12 9) = .next t :=
  ⟨rasterAt_raster _ (by decide) (by decide), rasterAt_params _ (by decide),
    next_of_onNext (by decide)⟩

/-- A cell of the first frame, and a POLL after the first toggle. -/
theorem witness_StepKeepsTheSinkInvariant :
    MachineInv (rasterAt oneByte 0 12 9) ∧ (∃ t, step (rasterAt oneByte 0 12 9) = .next t) ∧
    MachineInv (rasterAt oneByte 1 0 0) ∧
    ∃ t, step { rasterAt oneByte 1 0 0 with schedule := [.poll] } = .next t :=
  ⟨rasterAt_inv (by decide) (by decide) (by decide) (by decide), next_of_onNext (by decide),
    rasterAt_inv (by decide) (by decide) (by decide) (by decide), ⟨_, rfl⟩⟩

theorem witness_StepKeepsMemoryCanonical : oneByte.wf = true ∧
    ∃ t, step { State.reset with mem := oneByte, schedule := [.busWrite 0xBB80#16 0#8] } =
      .next t := ⟨by decide, ⟨_, rfl⟩⟩

/-- The first cell, the last cell and the last cycle of a frame. -/
theorem witness_NoStepOfARunningBlockStops :
    MachineInv (rasterAt oneByte 0 12 9) ∧ MachineInv (rasterAt oneByte 2 51 232) ∧
    MachineInv (rasterAt oneByte 1 63 311) :=
  ⟨rasterAt_inv (by decide) (by decide) (by decide) (by decide),
    rasterAt_inv (by decide) (by decide) (by decide) (by decide),
    rasterAt_inv (by decide) (by decide) (by decide) (by decide)⟩

theorem witness_EveryReadLiesInTheMappedRegions :
    MachineInv (rasterAt oneByte 0 12 9) ∧ ∃ t, chipStep (rasterAt oneByte 0 12 9) = .next t :=
  ⟨rasterAt_inv (by decide) (by decide) (by decide) (by decide), next_of_onNext (by decide)⟩

/-- The first and the last cell of a frame. -/
theorem witness_CellLandsAtItsRasterOffset :
    (MachineInv (rasterAt oneByte 0 12 9) ∧ (rasterAt oneByte 0 12 9).windowLine = (0 : Nat) ∧
      (rasterAt oneByte 0 12 9).horizontalCounter = 12 + 0) ∧
    (MachineInv (rasterAt oneByte 1 51 232) ∧ (rasterAt oneByte 1 51 232).faulted = false ∧
      (rasterAt oneByte 1 51 232).windowLine = (223 : Nat) ∧
      (rasterAt oneByte 1 51 232).horizontalCounter = 12 + 39) :=
  ⟨⟨rasterAt_inv (by decide) (by decide) (by decide) (by decide), by decide, rfl⟩,
    ⟨rasterAt_inv (by decide) (by decide) (by decide) (by decide), rfl, by decide, rfl⟩⟩

/-- Three pixels of a cell already drawn stay over the next cell. -/
theorem witness_DrawnPixelsStayUntilTheToggle :
    (rasterAt oneByte 0 13 9).schedule = [] ∧ 5 < (rasterAt oneByte 0 13 9).pixelCounter ∧
    ∃ t, core.run 1 (rasterAt oneByte 0 13 9) = .next t ∧
      t.toggles = (rasterAt oneByte 0 13 9).toggles := by
  refine ⟨rfl, by decide, ?_⟩
  have h : onNext (·.toggles) (step (rasterAt oneByte 0 13 9)) = some 0 := by decide
  cases hs : step (rasterAt oneByte 0 13 9) with
  | next t =>
    rw [hs] at h
    exact ⟨t, by rw [run_of_step hs]; rfl, Option.some.inj h⟩
  | fault f => rw [hs] at h; cases h
  | refused e => rw [hs] at h; cases h

theorem witness_StepNeverWritesTheOtherBuffer :
    (∃ t, chipStep (textCell 0) = .next t) ∧ ∃ t, chipStep (lineEnd 311) = .next t :=
  ⟨next_of_onNext (by decide), next_of_onNext (by decide)⟩

theorem witness_ProducerIsIndependentOfTheConsumer :
    producerView { textCell 0 with ready := true, pollResult := some none } =
      producerView (textCell 0) ∧
    (∃ t, runOp .poll State.reset = .next t) ∧ ∃ t, runOp .dump State.reset = .next t :=
  ⟨rfl, next_of_onNext (by decide), next_of_onNext (by decide)⟩

/-- A frame is ready, none is ready, the block is faulted, and no toggle has been made. -/
theorem witness_PollReturnsTheCompletedBufferOnce :
    (rasterAt oneByte 1 0 0).faulted = false ∧ (rasterAt oneByte 1 0 0).ready = true ∧
    SinkInv (rasterAt oneByte 1 0 0) ∧ (rasterAt oneByte 0 12 9).ready = false ∧
    { State.reset with faulted := true }.faulted = true ∧ SinkInv (rasterAt oneByte 0 12 9) ∧
    (rasterAt oneByte 0 12 9).toggles = 0 :=
  ⟨rfl, rfl, rasterAt_sink _ (by decide), rfl, rfl, rasterAt_sink _ (by decide), rfl⟩

theorem witness_LatestFrameWins :
    MachineInv (rasterAt oneByte 1 63 311) ∧ (rasterAt oneByte 1 63 311).schedule = [] ∧
    (rasterAt oneByte 1 63 311).faulted = false ∧
    (rasterAt oneByte 1 63 311).horizontalCounter = 63 ∧
    (rasterAt oneByte 1 63 311).verticalCounter + 1 = (rasterAt oneByte 1 63 311).totalLines :=
  ⟨rasterAt_inv (by decide) (by decide) (by decide) (by decide), rfl, rfl, rfl, rfl⟩

theorem witness_DumpReturnsTheCounters : State.reset.faulted = false := by decide

/-- A ready frame; a toggle that keeps a reference inside its window; reads inside the window before
and after the next toggle, after it, and at the ends of the frame and of the buffer. -/
theorem witness_PolledPixelsAreTheCompletedFrame :
    (MachineInv (rasterAt [] 1 63 311) ∧ (rasterAt [] 1 63 311).faulted = false ∧
      (rasterAt [] 1 63 311).ready = true ∧
      (⟨0, .zero, 1⟩ : FrameRef) ∈ (rasterAt [] 1 63 311).handed ∧
      (rasterAt [] 1 63 311).sinkView.valid ⟨0, .zero, 1⟩ = true ∧
      ∃ t, step (rasterAt [] 1 63 311) = .next t ∧ t.sinkOf 0 = some t.sinkView ∧
        t.sinkView.valid ⟨0, .zero, 1⟩ = true) ∧
    (∀ n ∈ [1, 2], MachineInv (rasterAt [] n 0 0) ∧
      (rasterAt [] n 0 0).handed[0]? = some ⟨0, .zero, 1⟩ ∧
      (rasterAt [] n 0 0).sinkOf 0 = some (rasterAt [] n 0 0).sinkView ∧
      (rasterAt [] n 0 0).sinkView.valid ⟨0, .zero, 1⟩ = true) ∧
    (MachineInv (rasterAt [] 2 13 9) ∧ (rasterAt [] 2 13 9).handed[0]? = some ⟨0, .zero, 1⟩ ∧
      (rasterAt [] 2 13 9).sinkView.valid ⟨0, .zero, 1⟩ = false) ∧
    53759 < 53760 ∧ 53759 < (rasterAt [] 2 13 9).sinkView.size ∧
    (rasterAt [] 2 13 9).sinkView.size ≤ 53760 := by
  refine ⟨⟨rasterAt_inv rfl (by decide) (by decide) (by decide), rfl, rfl,
      List.mem_singleton.2 rfl, rfl, _, rfl, rfl, rfl⟩, fun n hn => ?_,
    ⟨rasterAt_inv rfl (by decide) (by decide) (by decide), rfl, by decide⟩, by decide, by decide,
    by decide⟩
  simp only [List.mem_cons, List.not_mem_nil, or_false] at hn
  rcases hn with rfl | rfl
  · exact ⟨rasterAt_inv rfl (by decide) (by decide) (by decide), rfl, sinkOf_current _, rfl⟩
  · exact ⟨rasterAt_inv rfl (by decide) (by decide) (by decide), rfl, sinkOf_current _, rfl⟩

/-- The first cell after the next toggle, a blank cycle before it, a cycle after the window, and a POLL
inside it. -/
theorem witness_ValidityWindowEndsAtTheFirstCellAfterTheNextToggle :
    (∀ p ∈ [(11, 9), (12, 9), (13, 9)], MachineInv (rasterAt oneByte 2 p.1 p.2) ∧
      (⟨0, .zero, 1⟩ : FrameRef) ∈ (rasterAt oneByte 2 p.1 p.2).handed ∧
      (rasterAt oneByte 2 p.1 p.2).blockId = 0 ∧ (rasterAt oneByte 2 p.1 p.2).faulted = false) ∧
    (rasterAt oneByte 2 11 9).sinkView.valid ⟨0, .zero, 1⟩ = true ∧
    (∃ t, chipStep (rasterAt oneByte 2 11 9) = .next t) ∧
    (rasterAt oneByte 2 12 9).sinkView.valid ⟨0, .zero, 1⟩ = true ∧
    inWindow (rasterAt oneByte 2 12 9) = true ∧ (rasterAt oneByte 2 12 9).toggles = 1 + 1 ∧
    (∃ t, chipStep (rasterAt oneByte 1 12 9) = .next t) ∧
    (rasterAt oneByte 2 13 9).sinkView.valid ⟨0, .zero, 1⟩ = false ∧
    AgentOp.poll ≠ .step ∧ ∃ t, runOp .poll (rasterAt oneByte 2 11 9) = .next t := by
  refine ⟨fun p hp => ?_, rfl, ⟨_, rfl⟩, by decide, by decide, rfl, next_of_onNext (by decide),
    by decide, by decide, ⟨_, rfl⟩⟩
  simp only [List.mem_cons, List.not_mem_nil, or_false] at hp
  rcases hp with rfl | rfl | rfl <;>
    exact ⟨rasterAt_inv (by decide) (by decide) (by decide) (by decide), List.mem_singleton.2 rfl,
      rfl, rfl⟩

/-- A fresh frame start, and entry to the last cell of a frame. -/
theorem witness_CompletedFrameHoldsItsCells :
    FreshFrame (rasterAt oneByte 1 0 0) ∧
    MachineInv (rasterAt oneByte 0 12 9) ∧ (rasterAt oneByte 0 12 9).schedule = [] ∧
    (rasterAt oneByte 0 12 9).faulted = false ∧
    (rasterAt oneByte 0 12 9).windowLine = ((0 : Nat) : Int) ∧
    (rasterAt oneByte 0 12 9).horizontalCounter = 12 + 0 ∧
    MachineInv (rasterAt oneByte 1 51 232) ∧
    (rasterAt oneByte 1 51 232).windowLine = ((223 : Nat) : Int) ∧
    (rasterAt oneByte 1 51 232).horizontalCounter = 12 + 39 ∧
    ∃ t e : State, step (rasterAt oneByte 0 12 9) = .next t ∧ core.run 1 t = .next e ∧
      e.toggles ≤ (rasterAt oneByte 0 12 9).toggles + 1 := by
  refine ⟨freshFrame_oneByte, rasterAt_inv (by decide) (by decide) (by decide) (by decide), rfl, rfl,
    by decide, rfl, rasterAt_inv (by decide) (by decide) (by decide) (by decide), by decide, rfl, ?_⟩
  have h : onNext (·.toggles) (core.run 2 (rasterAt oneByte 0 12 9)) = some 0 := by decide
  cases hr : core.run 2 (rasterAt oneByte 0 12 9) with
  | next e =>
    obtain ⟨t, ht, hte⟩ := run_succ_next hr
    rw [hr] at h
    exact ⟨t, e, ht, hte, (Option.some.inj h).trans_le (Nat.zero_le _)⟩
  | fault f => rw [hr] at h; cases h
  | refused x => rw [hr] at h; cases h

/-- The toggle that ends a frame, a blank cycle and a cell. -/
theorem witness_NoPartialFrameIsExposed :
    (MachineInv (rasterAt oneByte 1 63 311) ∧ (rasterAt oneByte 1 63 311).faulted = false ∧
      ∃ t, chipStep (rasterAt oneByte 1 63 311) = .next t ∧
        t.toggles ≠ (rasterAt oneByte 1 63 311).toggles) ∧
    (∃ t, chipStep (rasterAt oneByte 0 0 0) = .next t ∧
      t.toggles = (rasterAt oneByte 0 0 0).toggles) ∧
    MachineInv (rasterAt oneByte 0 12 9) ∧ (rasterAt oneByte 0 12 9).faulted = false ∧
    ∃ t, chipStep (rasterAt oneByte 0 12 9) = .next t ∧
      t.toggles = (rasterAt oneByte 0 12 9).toggles ∧
      t.pixelCounter ≠ (rasterAt oneByte 0 12 9).pixelCounter := by
  refine ⟨⟨rasterAt_inv (by decide) (by decide) (by decide) (by decide), rfl, _, rfl, by decide⟩,
    ⟨_, rfl, rfl⟩, rasterAt_inv (by decide) (by decide) (by decide) (by decide), rfl, ?_⟩
  have h : onNext (fun t => (t.toggles, t.pixelCounter)) (chipStep (rasterAt oneByte 0 12 9)) =
      some (0, 6) := by decide
  cases hc : chipStep (rasterAt oneByte 0 12 9) with
  | next t =>
    rw [hc] at h
    have h := Option.some.inj h
    exact ⟨t, rfl, (Prod.mk.inj h).1, by rw [(Prod.mk.inj h).2]; decide⟩
  | fault f => rw [hc] at h; cases h
  | refused x => rw [hc] at h; cases h

/-- Each refusal, and the smallest buffer that is accepted (V-R3, V-R4 of 95_test_vectors.md). -/
theorem witness_ResetValidatesThenBuildsABlock :
    (∀ code, ProfileArg.omitted ≠ .other code) ∧ (0 : Int) ≤ 0 ∧ (-1 : Int) ≤ 0 ∧
    (240 : Int) * 223 < 53760 ∧ (0 : Int) < 240 ∧ (0 : Int) < 224 ∧ (53760 : Int) ≤ 240 * 224 :=
  ⟨by simp, by decide, by decide, by decide, by decide, by decide, by decide⟩

/-- The block that a RESET makes beside a polled frame of the old one. -/
def afterReset : State := newBlock false 240 224 (rasterAt [] 1 0 0)

theorem afterReset_handed : HandedInv afterReset := by
  have hr : ∀ ref ∈ afterReset.handed, ref = ⟨0, .zero, 1⟩ := fun ref h => List.mem_singleton.1 h
  have hs : afterReset.sinkOf 0 = some (rasterAt [] 1 0 0).sinkView := rfl
  refine ⟨fun ref h hb => ?_, fun v h => ?_, fun ref h => ?_, fun ref h v hv hval => ?_⟩
  · rw [hr ref h] at hb
    exact absurd hb (show ¬ 0 = 1 by decide)
  · rw [show v = (rasterAt [] 1 0 0).sinkView from List.mem_singleton.1 h]
    exact Nat.zero_lt_one
  · rw [hr ref h]
    exact ⟨_, hs, rfl⟩
  · rw [hr ref h] at hv hval ⊢
    exact (rasterAt_handed [] (by decide)).complete ⟨0, .zero, 1⟩ (List.mem_singleton.2 rfl) v
      ((sinkOf_current (rasterAt [] 1 0 0)).trans (hs.symm.trans hv)) hval

/-- A RESET beside a polled frame, and an operation of the new block. -/
theorem witness_RetiredSinksAreNeverWritten :
    HandedInv (rasterAt [] 1 0 0) ∧
    (∃ t, resetBlock .hz60_264 240 224 (rasterAt [] 1 0 0) = .next t) ∧
    HandedInv afterReset ∧ 0 < afterReset.blockId ∧
    ∃ u, runOp .step afterReset = .next u :=
  ⟨rasterAt_handed _ (by decide), ⟨_, rfl⟩, afterReset_handed, Nat.zero_lt_one, ⟨_, rfl⟩⟩

/-- A stream address below 0, and a faulted block. -/
theorem witness_FaultedBlockDoesNothing :
    (∃ f, chipStep { textCell 0 with lineAddr := -1 } = .fault f) ∧
    { State.reset with faulted := true }.faulted = true := ⟨⟨_, rfl⟩, rfl⟩

end Sys2Proof.Tests
end

section
/-! The MemoryBus reads of one STEP, in order (20_memory.md section 4): the stream byte comes from
`fetched`, the glyph byte from the code, and the raster's moves read nothing. -/

namespace Sys2Proof.Machine

theorem encodeByte_decodeByte : ∀ b : Byte, encodeByte (decodeByte b) = b := by decide

theorem encodeByte_nextCode (s : State) :
    encodeByte (nextCode s) = s.mem.read (streamAddr s).toNat :=
  encodeByte_decodeByte _

@[simp] theorem lineResetIfAbove_busReads (s : State) :
    (lineResetIfAbove s).busReads = s.busReads := by
  unfold lineResetIfAbove
  split
  · exact lineReset_busReads s
  · rfl

@[simp] theorem frameWrap_busReads (s : State) : (frameWrap s).busReads = s.busReads := rfl

@[simp] theorem lineWrap_busReads (s : State) : (lineWrap s).busReads = s.busReads := by
  simp only [lineWrap]
  split <;> simp

/-- The end of a STEP reads nothing. -/
@[simp] theorem advance_busReads (s : State) : (advance s).busReads = s.busReads := by
  unfold advance
  split
  · exact lineWrap_busReads _
  · rfl

/-- A stream code notes the reads of its cell after those already made. -/
theorem exec_busReads {i : Instr} {s t : State} (h : exec i s = .next t) :
    t.busReads = s.busReads ++ cellReads (encodeByte i) s := by
  obtain ⟨-, ht, -⟩ := exec_next h
  rw [ht]
  rfl

theorem cellReads_text {b : Byte} {s : State} (h : s.textMode = true) :
    cellReads b s = [⟨.glyph, glyphAddr b s⟩] := if_pos h

theorem cellReads_hires {b : Byte} {s : State} (h : s.textMode = false) : cellReads b s = [] :=
  if_neg (by simp [h])

theorem chipStep_blank_busReads {s t : State} (hf : s.faulted = false) (hw : inWindow s = false)
    (h : chipStep s = .next t) : t.busReads = [] := by
  rw [chipStep_blank hf hw] at h
  cases h
  exact advance_busReads _

/-- A visible STEP reads the stream byte, and after it what the cell of that byte reads. The mode and
the glyph address are those on entry, because the code's action comes after the reads. -/
theorem chipStep_visible_busReads {s t : State} (hf : s.faulted = false) (hw : inWindow s = true)
    (h : chipStep s = .next t) : t.busReads =
      ⟨.stream, streamAddr s⟩ :: cellReads (s.mem.read (streamAddr s).toNat) s := by
  obtain ⟨hf', -⟩ | ⟨-, hw', -⟩ | ⟨-, -, -, -, u, hu, rfl⟩ := chipStep_next h
  · simp [hf] at hf'
  · simp [hw] at hw'
  · calc u.busReads = (fetched s).busReads ++ cellReads (encodeByte (nextCode s)) (fetched s) :=
          exec_busReads hu
      _ = ⟨.stream, streamAddr s⟩ :: cellReads (s.mem.read (streamAddr s).toNat) s := by
          rw [encodeByte_nextCode]
          rfl

/-- Settles O20: by the case of the cycle (20_memory.md R48), and in a visible one by the rendering. -/
theorem readsOfOneStepInOrder : Obligations.ReadsOfOneStepInOrder := by
  intro s t hf h
  refine ⟨fun hw => chipStep_blank_busReads hf hw h, fun hw ht => ?_, fun hw ht => ?_⟩
  · rw [chipStep_visible_busReads hf hw h, cellReads_hires ht]
  · rw [chipStep_visible_busReads hf hw h, cellReads_text ht]

end Sys2Proof.Machine
end

section
/-! The fields of a stream byte and the control codes (30_encoding.md R66 to R71): a byte's masks
and its value as the fields `K` and `G`, and what the decoder answers for each group. -/

namespace Sys2Proof

/-- The class field as the quotient of the byte's value by the place of bit 5. -/
theorem fieldK_toNat (b : Byte) : (fieldK b).toNat = b.toNat / 32 % 4 := by
  simp [fieldK, Nat.shiftRight_eq_div_pow]

/-- The group field as the quotient of the byte's value by the place of bit 3. -/
theorem fieldG_toNat (b : Byte) : (fieldG b).toNat = b.toNat / 8 % 4 := by
  simp [fieldG, Nat.shiftRight_eq_div_pow]

theorem fieldV_eq_setWidth_and (b : Byte) : fieldV b = (b &&& 7#8).setWidth 3 := by
  revert b; decide

theorem and_0x60_eq_zero_iff (b : Byte) : b &&& 0x60#8 = 0#8 ↔ fieldK b = 0#2 := by
  revert b; decide

/-- The mask of the group keeps the bits of `G` in their place. -/
theorem and_0x18_eq_iff (b : Byte) (g : BitVec 2) :
    b &&& 0x18#8 = controlByte false g 0#3 ↔ fieldG b = g := by
  revert b g; decide

/-- The mask of a control row (section 8) is the masks of `K` and `G` together. -/
theorem and_0x78_eq_iff (b : Byte) (g : BitVec 2) :
    b &&& 0x78#8 = controlByte false g 0#3 ↔ fieldK b = 0#2 ∧ fieldG b = g := by
  revert b g; decide

/-- The values of the control row of group `g`: eight from `8 * g`, and the same with bit 7 set. -/
theorem fields_eq_iff_toNat_range (b : Byte) (g : BitVec 2) :
    (fieldK b = 0#2 ∧ fieldG b = g) ↔
      (8 * g.toNat ≤ b.toNat ∧ b.toNat ≤ 8 * g.toNat + 7) ∨
      (0x80 + 8 * g.toNat ≤ b.toNat ∧ b.toNat ≤ 0x80 + 8 * g.toNat + 7) := by
  have hb := b.isLt
  have hg := g.isLt
  rw [← BitVec.toNat_inj, ← BitVec.toNat_inj, fieldK_toNat, fieldG_toNat, BitVec.toNat_ofNat]
  omega

theorem fieldG_cases (b : Byte) :
    fieldG b = 0#2 ∨ fieldG b = 1#2 ∨ fieldG b = 2#2 ∨ fieldG b = 3#2 := by
  generalize fieldG b = g
  revert g; decide

section
variable {b : Byte}

theorem decodeByte_of_group_ink (hK : fieldK b = 0#2) (hG : fieldG b = 0#2) :
    decodeByte b = .ink (fieldR b) (fieldV b) := by
  simp [decodeByte, decodeControl, hK, hG]

theorem decodeByte_of_group_attr (hK : fieldK b = 0#2) (hG : fieldG b = 1#2) :
    decodeByte b = .attr (fieldR b) (b.getLsbD 2) (b.getLsbD 1) (b.getLsbD 0) := by
  simp [decodeByte, decodeControl, hK, hG]

theorem decodeByte_of_group_paper (hK : fieldK b = 0#2) (hG : fieldG b = 2#2) :
    decodeByte b = .paper (fieldR b) (fieldV b) := by
  simp [decodeByte, decodeControl, hK, hG]

theorem decodeByte_of_group_mode (hK : fieldK b = 0#2) (hG : fieldG b = 3#2) :
    decodeByte b = .mode (fieldR b) (b.getLsbD 2) (b.getLsbD 1) (b.getLsbD 0) := by
  simp [decodeByte, decodeControl, hK, hG]

end

theorem fieldK_controlByte : ∀ r g v, fieldK (controlByte r g v) = 0#2 := by decide

theorem fieldG_controlByte : ∀ r g v, fieldG (controlByte r g v) = g := by decide

/-- A byte that decodes to an instruction has the fields of that instruction's byte, because
encoding undoes decoding. -/
theorem fields_of_decodeByte_eq {b : Byte} {i : Instr} {r : Bool} {g : BitVec 2} {v : BitVec 3}
    (h : decodeByte b = i) (hi : encodeByte i = controlByte r g v) :
    fieldK b = 0#2 ∧ fieldG b = g := by
  have hb : b = controlByte r g v := by rw [← hi, ← h, Machine.encodeByte_decodeByte]
  rw [hb]
  exact ⟨fieldK_controlByte r g v, fieldG_controlByte r g v⟩

theorem fields_ink_iff (b : Byte) :
    (fieldK b = 0#2 ∧ fieldG b = 0#2) ↔ ∃ r c, decodeByte b = .ink r c :=
  ⟨fun ⟨hK, hG⟩ => ⟨_, _, decodeByte_of_group_ink hK hG⟩,
    fun ⟨_, _, h⟩ => fields_of_decodeByte_eq h rfl⟩

theorem fields_attr_iff (b : Byte) :
    (fieldK b = 0#2 ∧ fieldG b = 1#2) ↔ ∃ r b' d a, decodeByte b = .attr r b' d a :=
  ⟨fun ⟨hK, hG⟩ => ⟨_, _, _, _, decodeByte_of_group_attr hK hG⟩,
    fun ⟨_, _, _, _, h⟩ => fields_of_decodeByte_eq h rfl⟩

theorem fields_paper_iff (b : Byte) :
    (fieldK b = 0#2 ∧ fieldG b = 2#2) ↔ ∃ r c, decodeByte b = .paper r c :=
  ⟨fun ⟨hK, hG⟩ => ⟨_, _, decodeByte_of_group_paper hK hG⟩,
    fun ⟨_, _, h⟩ => fields_of_decodeByte_eq h rfl⟩

/-- Settles O2: the masks are the fields `K` and `G`, and the decoder's answer goes by these. -/
theorem controlGroupSelectsCodeAndOperands : Obligations.ControlGroupSelectsCodeAndOperands := by
  intro b
  have hmask (g : BitVec 2) := and_0x18_eq_iff b g
  have hrow (g : BitVec 2) := and_0x78_eq_iff b g
  have hrange (g : BitVec 2) := (hrow g).trans (fields_eq_iff_toNat_range b g)
  refine ⟨fun h => ?_, (hrange 0#2).trans (by simp), hrange 1#2, hrange 2#2,
    (hrow 0#2).trans (fields_ink_iff b), (hrow 1#2).trans (fields_attr_iff b),
    (hrow 2#2).trans (fields_paper_iff b)⟩
  have hK := (and_0x60_eq_zero_iff b).1 h
  rw [← fieldV_eq_setWidth_and]
  refine ⟨?_, fun hG => decodeByte_of_group_ink hK ((hmask 0#2).1 hG),
    fun hG => decodeByte_of_group_attr hK ((hmask 1#2).1 hG),
    fun hG => decodeByte_of_group_paper hK ((hmask 2#2).1 hG),
    fun hG => decodeByte_of_group_mode hK ((hmask 3#2).1 hG)⟩
  exact (fieldG_cases b).imp (hmask 0#2).2
    (.imp (hmask 1#2).2 (.imp (hmask 2#2).2 (hmask 3#2).2))

end Sys2Proof
end

section
/-! The advance of the counter inside a line and the base address of a line (40_raster_timing.md R85,
R89). -/

namespace Sys2Proof.Machine

/-- The rendering of a cell leaves `horizontalCounter` alone. -/
theorem renderCell_horizontalCounter {s u : State}
    (h : renderCell { s with busReads := [] } = .next u) :
    u.horizontalCounter = s.horizontalCounter := by
  by_cases hr : 0 ≤ streamAddr s ∧ streamAddr s ≤ 65535
  · rw [renderCell_inRange hr.1 hr.2] at h
    have hk : u.horizontalCounter = (fetched s).horizontalCounter := exec_horizontalCounter h
    exact hk
  · rw [renderCell_outOfRange (by omega)] at h
    cases h

/-- Settles O24: a blank cycle is the advance alone; a visible one is the cell, which leaves the
counter, and the advance. -/
theorem counterAdvancesByOneWithinALine : Obligations.CounterAdvancesByOneWithinALine := by
  intro s hs hf hh
  refine ⟨fun hw => ?_, fun u hw hu => ?_⟩
  · rw [step_idle hs, chipStep_blank hf hw, advance_within]
    show s.horizontalCounter ≠ 63
    omega
  · rw [step_idle hs, chipStep_visible hf hw, hu, mapNext_next, renderCell_horizontalCounter hu]

/-- Settles O27: the row of line `row * 8 + k` is its floor quotient by 8; the listed values are
computed. -/
theorem lineAddrSharesARowAmongEightLines : Obligations.LineAddrSharesARowAmongEightLines := by
  refine ⟨fun row k h0 h8 => ?_, fun w => lineAddrOf_eq false w, by decide⟩
  have hrow : (row * 8 + k) / 8 = row := by omega
  rw [lineAddrOf_eq, if_pos rfl, hrow]

end Sys2Proof.Machine
end

section
/-! A STEP of a running block keeps the raster's invariant and the parameters' domains (10_state.md
R43). A code keeps them on a visible line; then each raster move of `advance` in turn. -/

namespace Sys2Proof.Machine

/-! ### The place of the next pixel (10_state.md R43 (j)) -/

theorem pixelsDrawn_visible {w : Int} {hc : Nat} (hw0 : 0 ≤ w) (hw : w ≤ 223) (h12 : 12 ≤ hc)
    (h51 : hc ≤ 51) : pixelsDrawn w (hc + 1) = pixelsDrawn w hc + 6 := by
  unfold pixelsDrawn
  split_ifs <;> omega

theorem pixelsDrawn_blank {w : Int} {hc : Nat} (h : ¬ (12 ≤ hc ∧ hc ≤ 51 ∧ 0 ≤ w ∧ w ≤ 223)) :
    pixelsDrawn w (hc + 1) = pixelsDrawn w hc := by
  unfold pixelsDrawn
  split_ifs <;> omega

/-- The first pixel of a line follows the last of the line before. -/
theorem pixelsDrawn_newLine (w : Int) : pixelsDrawn (w + 1) 0 = pixelsDrawn w 63 := by
  unfold pixelsDrawn
  split_ifs <;> omega

/-! ### The stream codes -/

section
variable {s : State}

theorem attrAction_rasterInv (h : RasterInv s) (hw : s.windowLine < 224) (b d a : Bool) :
    RasterInv (attrAction b d a s) :=
  { h with
    f_charsetAddr := charsetAddrOf_eq _ _
    g_charline := fun _ => charline_eq d s.windowLine
    g_charlineKept := fun hk => absurd hw (not_lt.2 hk)
    i_blinkMask := blinkMaskOf_eq b s.frameCount }

/-- MODE keeps the invariant because the lines it can run on lie below both line counts. -/
theorem modeAction_rasterInv (h : RasterInv s) (hw : s.windowLine < 224) (hires f : Bool) :
    RasterInv (modeAction hires f s) :=
  { h with
    b_vertical := by
      have := h.c_windowLine
      rw [modeAction_totalLines, totalLinesOf_eq]
      show s.verticalCounter < _
      split <;> omega
    d_textMode := textModeOf_eq hires s.windowLine
    e_charsetBase := charsetBaseOf_eq hires
    f_charsetAddr := charsetAddrOf_eq _ _
    h_lineAddr := fun _ => lineAddrOf_eq _ _
    h_lineAddrKept := fun hk => absurd hw (not_lt.2 hk)
    k_totalLines := totalLinesOf_eq f }

/-- The registers a code writes meet the invariant again. -/
theorem effect_rasterInv (h : RasterInv s) (hw : s.windowLine < 224) (i : Instr) :
    RasterInv (effect i s) := by
  cases i with
  | ink r c => exact { h with }
  | paper r c => exact { h with }
  | attr r b d a => exact attrAction_rasterInv h hw b d a
  | mode r hires f x => exact modeAction_rasterInv h hw hires f
  | data1 r c => exact h
  | data2 r c => exact h
  | data3 r c => exact h

end

/-! ### The raster's moves -/

/-- What the per-line reset finds: the counters on a line below 224, the mode that it is to leave, and
the registers that it keeps, as the invariant has them. -/
structure ResetReady (s : State) : Prop where
  horizontal : s.horizontalCounter ≤ 63
  vertical : s.verticalCounter < s.totalLines
  windowLine : s.windowLine = (s.verticalCounter : Int) - 9
  above : s.windowLine < 224
  textMode : (lineReset s).textMode = (!s.hiresMode || decide (200 ≤ s.windowLine))
  charsetBase : s.charsetBase = if s.hiresMode then 0x9800 else 0xB400
  pixelCounter : (s.pixelCounter : Int) = pixelsDrawn s.windowLine s.horizontalCounter
  totalLines : s.totalLines = if s.palFreq then 312 else 264

/-- The frame wrap before its per-line reset and its toggle (40_raster_timing.md R91). -/
def frameStart (s : State) : State :=
  { s with
    verticalCounter := 0
    windowLine := -9
    pixelCounter := 0
    frameCount := (s.frameCount + 1) % 2 ^ s.frameCountBits
    textMode := !s.hiresMode }

theorem frameWrap_eq (s : State) : frameWrap s = toggle (lineReset (frameStart s)) := rfl

section
variable {s : State}

/-- The per-line reset gives every other register of the invariant its value. -/
theorem lineReset_rasterInv (h : ResetReady s) : RasterInv (lineReset s) where
  a_horizontal := h.horizontal
  b_vertical := h.vertical
  c_windowLine := h.windowLine
  d_textMode := h.textMode
  e_charsetBase := h.charsetBase
  f_charsetAddr := by simp
  g_charline _ := charline_eq false s.windowLine
  g_charlineKept hk := absurd h.above (not_lt.2 hk)
  h_lineAddr _ := lineAddrOf_eq _ _
  h_lineAddrKept hk := absurd h.above (not_lt.2 hk)
  i_blinkMask := by simp
  j_pixelCounter := h.pixelCounter
  k_totalLines := h.totalLines

theorem RasterInv.nextLine_windowLine (h : RasterInv s) :
    (nextLine s).windowLine = s.windowLine + 1 := by
  rw [Machine.nextLine_windowLine, h.c_windowLine]
  simp only [Config.vTopBlank]
  omega

theorem RasterInv.nextLine_pixelCounter (h : RasterInv s) (hh : s.horizontalCounter = 63) :
    ((nextLine s).pixelCounter : Int) = pixelsDrawn (nextLine s).windowLine 0 := by
  rw [h.nextLine_windowLine, pixelsDrawn_newLine, ← hh]
  exact h.j_pixelCounter

/-- The line count of either timing profile ends the frame below the visible window. -/
theorem RasterInv.totalLines_ge (h : RasterInv s) : 264 ≤ s.totalLines := by
  rw [h.k_totalLines]
  split <;> omega

theorem nextLine_resetReady (h : RasterInv s) (hh : s.horizontalCounter = 63)
    (hv : s.verticalCounter + 1 < 233) : ResetReady (nextLine s) where
  horizontal := Nat.zero_le 63
  vertical := by
    have := h.totalLines_ge
    show s.verticalCounter + 1 < s.totalLines
    omega
  windowLine := rfl
  above := by
    rw [h.nextLine_windowLine, h.c_windowLine]
    omega
  textMode := by
    rw [lineReset_textMode, h.nextLine_windowLine]
    show (if s.windowLine + 1 = 200 then true else s.textMode) = (!s.hiresMode || _)
    rw [h.d_textMode]
    by_cases h200 : s.windowLine + 1 = 200
    · simp [h200]
    · rw [if_neg h200, decide_eq_decide.2 (by omega : 200 ≤ s.windowLine ↔ 200 ≤ s.windowLine + 1)]
  charsetBase := h.e_charsetBase
  pixelCounter := h.nextLine_pixelCounter hh
  totalLines := h.k_totalLines

/-- From line 224 on the per-line registers stay as line 223 had them: row 7 of the last text row, in
either height. -/
theorem nextLine_rasterInv (h : RasterInv s) (hh : s.horizontalCounter = 63)
    (hv : 233 ≤ s.verticalCounter + 1) (hT : s.verticalCounter + 1 ≠ s.totalLines) :
    RasterInv (nextLine s) := by
  have hw := h.nextLine_windowLine
  have hc := h.c_windowLine
  have hvis : 224 ≤ s.windowLine ∨ s.windowLine = 223 := by omega
  have hnot : ¬ (nextLine s).windowLine < 224 := by omega
  exact {
    a_horizontal := Nat.zero_le 63
    b_vertical := lt_of_le_of_ne h.b_vertical hT
    c_windowLine := rfl
    d_textMode := by
      rw [hw]
      show s.textMode = (!s.hiresMode || _)
      rw [h.d_textMode, decide_eq_decide.2 (by omega : 200 ≤ s.windowLine ↔ 200 ≤ s.windowLine + 1)]
    e_charsetBase := h.e_charsetBase
    f_charsetAddr := h.f_charsetAddr
    g_charline := fun hlt => absurd hlt hnot
    g_charlineKept := fun _ => by
      show s.charline = 7
      rcases hvis with hk | h223
      · exact h.g_charlineKept hk
      · have hg := h.g_charline (by omega)
        rw [h223] at hg
        split at hg <;> omega
    h_lineAddr := fun hlt => absurd hlt hnot
    h_lineAddrKept := fun _ => by
      show s.lineAddr = 0xBFB8
      rcases hvis with hk | h223
      · exact h.h_lineAddrKept hk
      · have ht : s.textMode = true := by simp [h.d_textMode, h223]
        rw [h.h_lineAddr (by omega), if_pos ht, h223]
        decide
    i_blinkMask := h.i_blinkMask
    j_pixelCounter := h.nextLine_pixelCounter hh
    k_totalLines := h.k_totalLines }

theorem frameStart_resetReady (h : RasterInv s) : ResetReady (frameStart (nextLine s)) where
  horizontal := Nat.zero_le 63
  vertical := by
    have := h.totalLines_ge
    show 0 < s.totalLines
    omega
  windowLine := rfl
  above := by
    show (-9 : Int) < 224
    decide
  textMode := by simp [frameStart]
  charsetBase := h.e_charsetBase
  pixelCounter := rfl
  totalLines := h.k_totalLines

/-- The frame wrap starts a frame that meets the invariant. -/
theorem frameWrap_rasterInv (h : RasterInv s) : RasterInv (frameWrap (nextLine s)) := by
  rw [frameWrap_eq]
  exact { lineReset_rasterInv (frameStart_resetReady h) with }

/-- Where the cell is not drawn, the end of a STEP keeps the invariant. -/
theorem advance_rasterInv (h : RasterInv s) (hw : inWindow s = false) : RasterInv (advance s) := by
  have ha := h.a_horizontal
  have hT := h.totalLines_ge
  by_cases hh : s.horizontalCounter = 63
  · by_cases hv : s.verticalCounter + 1 < 233
    · rw [advance_newLine hh hv (by omega)]
      exact { lineReset_rasterInv (nextLine_resetReady h hh hv) with }
    · by_cases hl : s.verticalCounter + 1 = s.totalLines
      · rw [advance_frameEnd hh hl (by omega)]
        exact { frameWrap_rasterInv h with }
      · rw [advance_blankLine hh (by omega) hl]
        exact { nextLine_rasterInv h hh (by omega) hl with }
  · have hb : ¬ (12 ≤ s.horizontalCounter ∧ s.horizontalCounter ≤ 51 ∧ 0 ≤ s.windowLine ∧
        s.windowLine ≤ 223) := by
      rw [← inWindow_iff, hw]
      decide
    rw [advance_within hh]
    exact { h with
      a_horizontal := by show s.horizontalCounter + 1 ≤ 63; omega
      j_pixelCounter := h.j_pixelCounter.trans (pixelsDrawn_blank hb).symm }

end

/-! ### STEP -/

section
variable {s t : State}

/-- A visible STEP keeps the invariant: the cell's six pixels are those of its column. -/
theorem cellStep_rasterInv (h : RasterInv s) (hw : inWindow s = true) {u : State}
    (hu : exec (nextCode s) (fetched s) = .next u) : RasterInv { u with
      horizontalCounter := s.horizontalCounter + 1, stepResult := some false } := by
  obtain ⟨h12, h51, hw0, hw223⟩ := (inWindow_iff s).1 hw
  obtain ⟨-, hu, -⟩ := exec_next hu
  have hf : RasterInv (fetched s) := { h with }
  have he := effect_rasterInv hf (show s.windowLine < 224 by omega) (nextCode s)
  have hwl : (effect (nextCode s) (fetched s)).windowLine = s.windowLine := by
    cases nextCode s <;> rfl
  rw [hu]
  exact { he with
    a_horizontal := by show s.horizontalCounter + 1 ≤ 63; omega
    j_pixelCounter := by
      show ((s.pixelCounter + 6 : Nat) : Int) =
        pixelsDrawn (effect (nextCode s) (fetched s)).windowLine (s.horizontalCounter + 1)
      rw [hwl, pixelsDrawn_visible hw0 hw223 h12 h51, ← h.j_pixelCounter]
      rfl }

theorem chipStep_rasterInv (h : RasterInv s) (hs : chipStep s = .next t) : RasterInv t := by
  obtain ⟨-, rfl⟩ | ⟨-, hw, rfl⟩ | ⟨-, hw, -, -, u, hu, rfl⟩ := chipStep_next hs
  · exact { h with }
  · exact advance_rasterInv { h with } hw
  · exact cellStep_rasterInv h hw hu

/-- `frameCount` changes at the frame wrap only, and there modulo its width. -/
theorem advance_frameCount (s : State) : (advance s).frameCount = s.frameCount ∨
    (advance s).frameCount = (s.frameCount + 1) % 2 ^ s.frameCountBits := by
  unfold advance lineWrap lineResetIfAbove frameWrap
  simp only []
  split
  · split <;> split <;> simp
  · simp

theorem ParamInv.of_counted (h : ParamInv s) (hwidth : t.screenWidth = s.screenWidth)
    (hheight : t.screenHeight = s.screenHeight) (hbits : t.frameCountBits = s.frameCountBits)
    (hcount : t.frameCount = s.frameCount ∨
      t.frameCount = (s.frameCount + 1) % 2 ^ s.frameCountBits) : ParamInv t where
  geometry := by rw [hwidth, hheight]; exact h.geometry
  width := by rw [hbits]; exact h.width
  frameCount := by
    rw [hbits]
    rcases hcount with hc | hc <;> rw [hc]
    · exact h.frameCount
    · exact Nat.mod_lt _ (Nat.two_pow_pos _)

theorem chipStep_paramInv (h : ParamInv s) (hs : chipStep s = .next t) : ParamInv t := by
  obtain ⟨-, rfl⟩ | ⟨-, -, rfl⟩ | ⟨-, -, -, -, u, hu, rfl⟩ := chipStep_next hs
  · exact { h with }
  · obtain ⟨-, -, -, -, -, -, -, -, hwidth, hheight, hbits, -⟩ :=
      advance_environment { s with busReads := [] }
    exact h.of_counted hwidth hheight hbits (advance_frameCount { s with busReads := [] })
  · obtain ⟨-, -, -, -, -, -, -, -, hwidth, hheight, hbits, hcount, -⟩ := exec_environment hu
    exact h.of_counted hwidth hheight hbits (.inl hcount)

end

end Sys2Proof.Machine
end

section
/-! No STEP of a running block stops, and so a running block goes on running (60_exceptions.md R145):
both reads are within the MemoryBus and the six pixels are within the buffer. -/

namespace Sys2Proof.Machine

theorem glyphNumber_le (b : Byte) : glyphNumber b ≤ 127 := by
  rw [glyphNumber, BitVec.toNat_and]
  exact Nat.and_le_right

section
variable {s : State}

/-- A visible STEP fetches its stream byte from the screen: line 0 to 223, column 0 to 39. -/
theorem streamAddr_inRange (h : RasterInv s) (hw : inWindow s = true) :
    0 ≤ streamAddr s ∧ streamAddr s ≤ 65535 := by
  obtain ⟨h12, h51, hw0, hw223⟩ := (inWindow_iff s).1 hw
  have ha := h.h_lineAddr (by omega)
  simp only [streamAddr, Config.hVisFirst]
  split at ha <;> omega

theorem RasterInv.charline_le (h : RasterInv s) (hw : s.windowLine < 224) : s.charline ≤ 7 := by
  have hc := h.g_charline hw
  split at hc <;> omega

/-- A glyph lies in one of the four glyph tables, the last of which ends at 0xBBFF. -/
theorem glyphAddr_inRange (h : RasterInv s) (hw : s.windowLine < 224) (b : Byte) :
    glyphAddr b s ≤ 65535 := by
  have hglyph := glyphNumber_le b
  have hrow := h.charline_le hw
  have hset := s.charset.isLt
  have htable := h.f_charsetAddr
  have hbase : s.charsetBase ≤ 0xB400 := by
    rw [h.e_charsetBase]
    split <;> omega
  simp only [glyphAddr, Config.glyphBytes]
  omega

theorem pixelCounter_room (h : RasterInv s) (hp : ParamInv s) (hw : inWindow s = true) :
    s.pixelCounter + 6 ≤ s.screenWidth * s.screenHeight := by
  obtain ⟨h12, h51, hw0, hw223⟩ := (inWindow_iff s).1 hw
  have hj := h.j_pixelCounter
  rw [pixelsDrawn, if_neg (by omega), if_pos hw223] at hj
  have := hp.geometry
  omega

theorem cellReady_inWindow (h : RasterInv s) (hp : ParamInv s) (hw : inWindow s = true) (b : Byte) :
    CellReady b (fetched s) :=
  have hline := (inWindow_iff s).1 hw
  ⟨fun _ => glyphAddr_inRange (s := s) h (by omega) b, pixelCounter_room (s := s) h hp hw⟩

/-- A STEP of a block that meets the invariants answers a next state, whatever memory holds. -/
theorem chipStep_progress (h : RasterInv s) (hp : ParamInv s) : ∃ t, chipStep s = .next t := by
  by_cases hf : s.faulted = true
  · exact ⟨_, chipStep_faulted hf⟩
  rw [Bool.not_eq_true] at hf
  by_cases hw : inWindow s = true
  · obtain ⟨h0, h1⟩ := streamAddr_inRange h hw
    obtain ⟨u, hu, -⟩ := exec_ready (nextCode s) (cellReady_inWindow h hp hw _)
    rw [chipStep_visible hf hw, renderCell_inRange h0 h1, hu]
    exact ⟨_, rfl⟩
  · rw [Bool.not_eq_true] at hw
    exact ⟨_, chipStep_blank hf hw⟩

/-- A STEP leaves the agents' pending operations and the faulted flag alone. -/
theorem chipStep_agents {t : State} (hs : chipStep s = .next t) :
    t.schedule = s.schedule ∧ t.faulted = s.faulted := by
  obtain ⟨-, rfl⟩ | ⟨-, -, rfl⟩ | ⟨-, -, -, -, u, hu, rfl⟩ := chipStep_next hs
  · exact ⟨rfl, rfl⟩
  · obtain ⟨-, -, -, hsched, hfault, -⟩ := advance_environment { s with busReads := [] }
    exact ⟨hsched, hfault⟩
  · obtain ⟨-, hsched, -, -, -, -, -, -, -, -, -, -, -, -, hfault⟩ := exec_environment hu
    exact ⟨hsched, hfault⟩

end

/-- A block that nothing but its own STEPs will change, with the invariants that keep it from
stopping. -/
structure Running (s : State) : Prop where
  raster : RasterInv s
  params : ParamInv s
  running : s.faulted = false
  idle : s.schedule = []

theorem FreshFrame.toRunning {s : State} (h : FreshFrame s) : Running s :=
  ⟨h.inv.raster, h.inv.params, h.running, h.idle⟩

theorem Running.step_next {s : State} (h : Running s) : ∃ t, step s = .next t ∧ Running t := by
  obtain ⟨t, ht⟩ := chipStep_progress h.raster h.params
  obtain ⟨hsched, hfault⟩ := chipStep_agents ht
  exact ⟨t, (step_idle h.idle).trans ht, chipStep_rasterInv h.raster ht,
    chipStep_paramInv h.params ht, hfault.trans h.running, hsched.trans h.idle⟩

end Sys2Proof.Machine
end

section
/-! The frame-complete result (40_raster_timing.md R92): one STEP by whether it is entered in the last
cycle of the frame, and a frame by the number of the cycle. -/

namespace Sys2Proof.Machine

/-- On entry to the last cycle of the last line. -/
def LastCycle (s : State) : Prop :=
  s.horizontalCounter = 63 ∧ s.verticalCounter + 1 = s.totalLines

/-- From `s` to `t` the frame went on: no frame is reported and the roles of the buffers stay. -/
structure GoesOn (s t : State) : Prop where
  result : t.stepResult = some false
  toggles : t.toggles = s.toggles

/-- From `s` to `t` the frame ended: it is reported, the roles are exchanged, the buffer that was
active is ready, and no pixel was stored. -/
structure EndsFrame (s t : State) : Prop where
  result : t.stepResult = some true
  toggles : t.toggles = s.toggles + 1
  ready : t.ready = true
  active : t.activeIndex = s.activeIndex.other
  block : t.blockId = s.blockId
  bufs : ∀ b, t.buf b = s.buf b
  running : t.faulted = s.faulted

section
variable {s t : State}

/-- The end of a STEP ends the frame exactly in its last cycle. -/
theorem advance_goesOn_or_endsFrame (s : State) :
    (¬ LastCycle s ∧ GoesOn s (advance s)) ∨ (LastCycle s ∧ EndsFrame s (advance s)) := by
  obtain ⟨-, htoggles, -, -, hresult, hlast⟩ | ⟨hactive, htoggles, hready, -, hresult, hlast⟩ :=
    advance_sink s
  · exact .inl ⟨hlast, hresult, htoggles⟩
  · obtain ⟨-, hbuf0, hbuf1, -, hfault, -, -, hblock, -⟩ := advance_environment s
    exact .inr ⟨hlast, hresult, htoggles, hready, hactive, hblock, buf_congr hbuf0 hbuf1, hfault⟩

/-- No visible cycle is the last of its line, so only a blank one can end the frame. -/
theorem chipStep_goesOn_or_endsFrame (hf : s.faulted = false) (h : chipStep s = .next t) :
    (¬ LastCycle s ∧ GoesOn s t) ∨ (LastCycle s ∧ EndsFrame s t) := by
  obtain ⟨hf', -⟩ | ⟨-, -, rfl⟩ | ⟨-, hw, -, -, u, hu, rfl⟩ := chipStep_next h
  · simp [hf] at hf'
  · exact (advance_goesOn_or_endsFrame { s with busReads := [] }).imp
      (fun ⟨hlast, hres, htog⟩ => ⟨hlast, hres, htog⟩)
      (fun ⟨hlast, he⟩ => ⟨hlast, { he with }⟩)
  · have hcol := (inWindow_iff s).1 hw
    obtain ⟨-, -, -, htoggles, -⟩ := exec_environment hu
    exact .inl ⟨fun hlast => by have := hlast.1; omega, rfl, htoggles⟩

theorem chipStep_reports_iff (hf : s.faulted = false) (h : chipStep s = .next t) :
    t.stepResult = some true ↔ LastCycle s := by
  obtain ⟨hlast, hg⟩ | ⟨hlast, he⟩ := chipStep_goesOn_or_endsFrame hf h
  · simp [hg.result, hlast]
  · simp [he.result, hlast]

/-- A POLL after the end of a frame returns the buffer that was being written. -/
theorem EndsFrame.poll_returns (h : EndsFrame s t) (hf : s.faulted = false) : ∃ u, poll t = .next u ∧
    u.pollResult = some (some ⟨s.blockId, s.activeIndex, t.toggles⟩) ∧
    u.buf s.activeIndex = s.buf s.activeIndex := by
  refine ⟨_, poll_ready (h.running.trans hf) h.ready, ?_, ?_⟩
  · show some (some t.completedRef) = _
    rw [State.completedRef, h.active, h.block, BufIndex.other_other]
  · exact (buf_congr rfl rfl _).trans (h.bufs _)

/-! ### The number of a cycle in its frame -/

/-- The cycles of the frame that are completed on entry (40_raster_timing.md R94). -/
def frameCycle (s : State) : Nat := 64 * s.verticalCounter + s.horizontalCounter

theorem FreshFrame.frameCycle_eq (h : FreshFrame s) : frameCycle s = 0 := by
  rw [frameCycle, h.vertical, h.horizontal]

theorem lastCycle_iff (h : RasterInv s) : LastCycle s ↔ frameCycle s + 1 = 64 * s.totalLines := by
  have ha := h.a_horizontal
  have hb := h.b_vertical
  unfold LastCycle frameCycle
  omega

/-- Short of the last cycle the end of a STEP moves the raster one cycle on. -/
theorem advance_frameCycle (hl : ¬ LastCycle s) :
    frameCycle (advance s) = frameCycle s + 1 := by
  by_cases hh : s.horizontalCounter = 63
  · have hT : s.verticalCounter + 1 ≠ s.totalLines := fun hv => hl ⟨hh, hv⟩
    have hline : 64 * (s.verticalCounter + 1) + 0 = frameCycle s + 1 := by
      unfold frameCycle
      omega
    by_cases hv : s.verticalCounter + 1 < 233
    · rw [advance_newLine hh hv hT]
      exact hline
    · rw [advance_blankLine hh (by omega) hT]
      exact hline
  · rw [advance_within hh]
    rfl

theorem Running.step_frameCycle (h : Running s) (hl : ¬ LastCycle s) (ht : step s = .next t) :
    frameCycle t = frameCycle s + 1 := by
  rw [step_idle h.idle] at ht
  obtain ⟨hf, -⟩ | ⟨-, -, rfl⟩ | ⟨-, -, -, -, u, hu, rfl⟩ := chipStep_next ht
  · simp [h.running] at hf
  · exact advance_frameCycle (s := { s with busReads := [] }) hl
  · obtain ⟨-, -, -, -, -, -, -, -, -, -, -, -, -, hvertical, -⟩ := exec_environment hu
    show 64 * u.verticalCounter + (s.horizontalCounter + 1) = frameCycle s + 1
    rw [hvertical]
    rfl

/-- From a fresh frame start whose line count stays, a run of less than a frame is a running block
that has completed as many cycles as it took steps. -/
theorem FreshFrame.run_frameCycle (h : FreshFrame s)
    (hT : ∀ n < 64 * s.totalLines, ∀ t, core.run n s = .next t → t.totalLines = s.totalLines) :
    ∀ n < 64 * s.totalLines, ∃ t, core.run n s = .next t ∧ Running t ∧
      t.totalLines = s.totalLines ∧ frameCycle t = n := by
  intro n
  induction n with
  | zero => exact fun _ => ⟨s, rfl, h.toRunning, rfl, h.frameCycle_eq⟩
  | succ n ih =>
    intro hn
    obtain ⟨u, hu, hrun, hlines, hcycle⟩ := ih (by omega)
    obtain ⟨t, ht, hrun'⟩ := hrun.step_next
    have hnot : ¬ LastCycle u := by
      rw [lastCycle_iff hrun.raster]
      omega
    have hst := run_snoc hu ht
    refine ⟨t, hst, hrun', hT _ hn t hst, ?_⟩
    rw [hrun.step_frameCycle hnot ht, hcycle]

end

/-- Settles O29: a STEP by whether it is entered in the last cycle; in a frame, the STEP that makes
cycle `n` is entered with `n - 1` cycles completed. -/
theorem frameCompleteExactlyInTheLastCycle : Obligations.FrameCompleteExactlyInTheLastCycle := by
  refine ⟨fun s hinv hs hf => ?_, fun s hfresh hT n h1 hn => ?_⟩
  · obtain ⟨t, ht⟩ := chipStep_progress hinv.raster hinv.params
    have hlast := chipStep_reports_iff hf ht
    refine ⟨t, (step_idle hs).trans ht, ?_⟩
    obtain ⟨-, hg⟩ | ⟨-, he⟩ := chipStep_goesOn_or_endsFrame hf ht
    · exact ⟨.inr hg.result, hlast, by simp [hg.result, hg.toggles], by simp [hg.result]⟩
    · exact ⟨.inl he.result, hlast, by simp [he.result, he.toggles],
        fun _ => ⟨he.ready, he.poll_returns hf⟩⟩
  · obtain ⟨m, rfl⟩ : ∃ m, n = m + 1 := ⟨n - 1, by omega⟩
    obtain ⟨u, hu, hrun, hlines, hcycle⟩ := hfresh.run_frameCycle hT m (by omega)
    obtain ⟨t, ht, -⟩ := hrun.step_next
    refine ⟨t, run_snoc hu ht, ?_⟩
    rw [chipStep_reports_iff hrun.running ((step_idle hrun.idle).symm.trans ht),
      lastCycle_iff hrun.raster, hcycle, hlines]

end Sys2Proof.Machine
end

section
/-! The data codes' cells and the blink mask (41_cell_fetch_data.md R103, R104): a data code draws its
source under the mask and has no effect on a register; ATTR and the per-line reset alone write the
mask. -/

namespace Sys2Proof.Machine

/-! ### The cell of a data code -/

/-- The colour of dot `d` of a data cell of the stream byte `b`: the bit of its source and that of the
mask together select the foreground. -/
def maskedDotColour (b : Byte) (s : State) (d : Nat) : Colour :=
  if (cellSource b s).getLsbD (5 - d) && s.blinkMask.getLsbD (5 - d) then
    foreground b s.ink s.paper
  else background b s.ink s.paper

theorem maskedDotColour_suppressed {s : State} (h : s.blinkMask = 0#6) (b : Byte) :
    maskedDotColour b s = fun _ => background b s.ink s.paper := by
  funext d
  simp [maskedDotColour, h]

theorem maskedDotColour_shown {s : State} (h : s.blinkMask = 63#6) (b : Byte) :
    maskedDotColour b s = fun d => if (cellSource b s).getLsbD (5 - d) then
      foreground b s.ink s.paper else background b s.ink s.paper := by
  funext d
  have hbits : ∀ k < 6, (63#6).getLsbD k = true := by decide
  rw [maskedDotColour, h, hbits (5 - d) (by omega), Bool.and_true]

/-- A dot of the source under the widened mask is its bit and the mask's. -/
theorem dotColour_masked (b : Byte) (s : State) (d : Nat) :
    dotColour b (cellSource b s &&& s.blinkMask.setWidth 8) s.ink s.paper d =
      maskedDotColour b s d := by
  have hd : 5 - d < 8 := by omega
  simp [dotColour, maskedDotColour, cellDot, hd]

section
variable {i : Instr} {r : Bool} {code : BitVec 7}
  (hi : i = .data1 r code ∨ i = .data2 r code ∨ i = .data3 r code)
include hi

theorem effect_data (s : State) : effect i s = s := by
  rcases hi with rfl | rfl | rfl <;> rfl

theorem cellOf_data (s : State) :
    cellOf i s = cellSource (encodeByte i) s &&& s.blinkMask.setWidth 8 := by
  rcases hi with rfl | rfl | rfl <;> rfl

theorem cellColour_data (s : State) : cellColour i s = maskedDotColour (encodeByte i) s := by
  funext d
  rw [cellColour, effect_data hi, cellOf_data hi, dotColour_masked]

theorem afterCell_data (s t : State) :
    afterCell i s t.buf0 t.buf1 = drawnFrom (encodeByte i) s t := by
  rw [afterCell, effect_data hi, drawnFrom]

/-- What a data code does where its cell is ready, the same for the three rows. -/
theorem exec_data_ready {s : State} (h : CellReady (encodeByte i) s) : ∃ t, exec i s = .next t ∧
    t = drawnFrom (encodeByte i) s t ∧ CellStores s t (maskedDotColour (encodeByte i) s) := by
  obtain ⟨t, ht, hafter, hstores, -⟩ := exec_ready i h
  rw [afterCell_data hi] at hafter
  rw [cellColour_data hi] at hstores
  exact ⟨t, ht, hafter, hstores⟩

end

/-- Settles O14: the three data rows have one cell, whose dots are the source's under the mask. -/
theorem dataCodeDrawsItsMaskedDots : Obligations.DataCodeDrawsItsMaskedDots :=
  fun _ _ _ _ hi h => exec_data_ready hi h

/-! ### Who writes the blink mask -/

/-- The mask that blink selects changes with every sixteenth frame. -/
theorem blinkMaskOf_true (n : Nat) :
    blinkMaskOf true n = if n / 16 % 2 = 0 then 63#6 else 0#6 := by
  rw [blinkMaskOf_eq, Bool.true_and, Nat.testBit_eq_decide_div_mod_eq]
  rcases Nat.mod_two_eq_zero_or_one (n / 16) with h | h <;> simp [h]

theorem effect_blinkMask {i : Instr} (hi : ∀ r b d a, i ≠ .attr r b d a) (s : State) :
    (effect i s).blinkMask = s.blinkMask := by
  cases i with
  | ink r c => exact inkAction_blinkMask c s
  | attr r b d a => exact absurd rfl (hi r b d a)
  | paper r c => exact paperAction_blinkMask c s
  | mode r h f x => exact modeAction_blinkMask h f s
  | data1 r code => rfl
  | data2 r code => rfl
  | data3 r code => rfl

/-- The cell itself leaves the mask as the code's effect set it. -/
theorem exec_blinkMask {i : Instr} {s t : State} (h : exec i s = .next t) :
    t.blinkMask = (effect i s).blinkMask := by
  obtain ⟨-, hafter, -⟩ := exec_next h
  rw [hafter]
  rfl

theorem exec_attr_blinkMask {r b d a : Bool} {s t : State}
    (h : exec (.attr r b d a) s = .next t) : t.blinkMask = blinkMaskOf b s.frameCount :=
  (exec_blinkMask h).trans (attrAction_blinkMask b d a s)

/-- A wrap into a line below 224 ends with a per-line reset, whether or not it ends the frame. -/
theorem lineWrap_blinkMask {s : State} (hv : s.verticalCounter + 1 < 233) :
    (lineWrap s).blinkMask = 63#6 := by
  have hw : (nextLine s).windowLine < 224 := by
    rw [nextLine_windowLine]
    simp only [Config.vTopBlank]
    omega
  have hreset : lineResetIfAbove (nextLine s) = lineReset (nextLine s) := if_pos hw
  simp only [lineWrap, hreset]
  split <;> rfl

/-- Settles O15: the mask an ATTR sets by the frame's number, who else writes it, and a data cell
under each of its two values. -/
theorem blinkShowsAndSuppressesSixteenFramesEach :
    Obligations.BlinkShowsAndSuppressesSixteenFramesEach := by
  refine ⟨fun r d a s h => ?_, fun i s t hi h => ?_, fun s hh => ?_, fun s hh hv => ?_,
    fun i r code s hi h => ?_⟩
  · obtain ⟨t, ht, -⟩ := exec_ready _ h
    exact ⟨t, ht, (exec_attr_blinkMask ht).trans (blinkMaskOf_true s.frameCount)⟩
  · exact (exec_blinkMask h).trans (effect_blinkMask hi s)
  · rw [advance_within hh]
  · rw [advance_lineEnd hh]
    exact lineWrap_blinkMask hv
  · obtain ⟨t, ht, -, hstores⟩ := exec_data_ready hi h
    refine ⟨t, ht, fun hmask => ?_, fun hmask => ?_⟩
    · rwa [maskedDotColour_suppressed hmask] at hstores
    · rwa [maskedDotColour_shown hmask] at hstores

end Sys2Proof.Machine
end

section
/-! EmitCell on its own (43_colour_output.md R117): the bits of `cellData` from 5 down to 0 choose
between the two colours that reverse video leaves the cell. -/

namespace Sys2Proof.Machine

/-- The order of R117: the leftmost dot is bit 5, the rightmost bit 0. -/
theorem dotColour_eq_foreground_or_background (b cd : Byte) (ink paper : Colour) :
    dotColour b cd ink paper = fun d =>
      if cd.getLsbD (5 - d) then foreground b ink paper else background b ink paper := by
  funext d
  rw [dotColour, cellDot]

/-- Settles O23: the six stores of a cell that fits, each dot's colour read off its bit. -/
theorem emitCellStoresSixDotsInBitOrder : Obligations.EmitCellStoresSixDotsInBitOrder := by
  intro b cd s hfits
  obtain ⟨t, ht, hframe, hstores, -⟩ := emitCell_ready (b := b) (cd := cd) hfits
  rw [dotColour_eq_foreground_or_background] at hstores
  exact ⟨t, ht, hframe, hstores⟩

end Sys2Proof.Machine
end

section
/-! POLL and DUMP (44_frame_handoff.md section 2): DUMP writes its result only, and what a POLL leaves
for the POLL after it. -/

namespace Sys2Proof.Machine

section
variable {s t : State}

theorem dump_running (hf : s.faulted = false) : dump s = .next { s with
    dumpResult := some ⟨s.frameCount, s.horizontalCounter, s.verticalCounter⟩ } :=
  if_neg (by simp [hf])

theorem poll_notReady (hf : s.faulted = false) (hr : s.ready = false) :
    poll s = .next { s with pollResult := some none } := by
  rw [poll, if_neg (by simp [hf]), if_neg (by simp [hr])]

/-- Whatever a POLL returned, the POLL after it finds no frame. -/
theorem poll_again (hf : s.faulted = false) (h : poll s = .next t) :
    ∃ u, poll t = .next u ∧ u.pollResult = some none := by
  by_cases hr : s.ready = true
  · rw [poll_ready hf hr] at h
    cases h
    exact ⟨_, poll_notReady hf rfl, rfl⟩
  · rw [Bool.not_eq_true] at hr
    rw [poll_notReady hf hr] at h
    cases h
    exact ⟨_, poll_notReady hf hr, rfl⟩

end

/-- Settles O44: the running block by the branch of DUMP, every block by what DUMP can write. -/
theorem dumpReturnsTheCounters : Obligations.DumpReturnsTheCounters := by
  refine ⟨fun s hf => dump_running hf, fun s => ?_⟩
  obtain ⟨d, hd⟩ := dump_next s
  exact ⟨_, hd, rfl⟩

end Sys2Proof.Machine
end

section
/-! The newest frame wins (44_frame_handoff.md R127): the last cycle of a frame is blank, and its
toggle sets `ready` without a look at it. -/

namespace Sys2Proof.Machine

section
variable {s : State}

theorem LastCycle.blank (hl : LastCycle s) : inWindow s = false := by
  rw [← Bool.not_eq_true, inWindow_iff]
  have := hl.1
  omega

/-- A STEP in the last cycle of a frame is the frame wrap. -/
theorem chipStep_lastCycle (h : RasterInv s) (hf : s.faulted = false) (hl : LastCycle s) :
    chipStep s = .next
      { frameWrap (nextLine { s with busReads := [] }) with stepResult := some true } := by
  have hlines := h.totalLines_ge
  rw [chipStep_blank hf hl.blank]
  exact congrArg _ (advance_frameEnd (s := { s with busReads := [] }) hl.1 hl.2
    (show 233 ≤ s.verticalCounter + 1 by have := hl.2; omega))

/-- Nothing of a frame that was still ready, or was not, is left after the toggle. -/
theorem chipStep_lastCycle_ready (h : RasterInv s) (hf : s.faulted = false) (hl : LastCycle s)
    (r : Bool) : chipStep { s with ready := r } = chipStep s := by
  rw [chipStep_lastCycle (s := { s with ready := r }) { h with } hf hl, chipStep_lastCycle h hf hl]
  rfl

end

/-- Settles O43: the last cycle with either value of `ready` is the last cycle of `s`, which ends the
frame; POLL returns the buffer just completed and clears `ready`. -/
theorem latestFrameWins : Obligations.LatestFrameWins := by
  intro s hinv hs hf hcol hline
  have hl : LastCycle s := ⟨hcol, hline⟩
  have hready (r : Bool) : step { s with ready := r } = chipStep s :=
    (step_idle (s := { s with ready := r }) hs).trans (chipStep_lastCycle_ready hinv.raster hf hl r)
  obtain ⟨t, ht⟩ := chipStep_progress hinv.raster hinv.params
  obtain ⟨hnot, -⟩ | ⟨-, he⟩ := chipStep_goesOn_or_endsFrame hf ht
  · exact absurd hl hnot
  obtain ⟨u, hu, hresult, -⟩ := he.poll_returns hf
  obtain ⟨v, hv, hnone⟩ := poll_again (he.running.trans hf) hu
  exact ⟨(hready true).trans (hready false).symm, t, u, v, (step_idle hs).trans ht, he.active,
    he.ready, he.bufs .zero, he.bufs .one, hu, hresult, hv, hnone⟩

end Sys2Proof.Machine
end

section
/-! The producer is independent of the consumer (44_frame_handoff.md R128): a cell commutes with
`producerView`, stops included, and the end of a STEP does up to the `ready` that its toggle sets. -/

namespace Sys2Proof.Machine

theorem mapNext_mapNext (f g : State → State) (r : Result) :
    mapNext f (mapNext g r) = mapNext (fun s => f (g s)) r := by cases r <;> rfl

/-- A change of the state that `k` turns into `k'` can be made before going on. -/
theorem mapNext_andThen {g : State → State} {k k' : State → Result}
    (hk : ∀ t, k' (g t) = mapNext g (k t)) (r : Result) :
    andThen (mapNext g r) k' = mapNext g (andThen r k) := by
  cases r with
  | next u => exact hk u
  | fault f => rfl
  | refused e => rfl

/-! ### The cell -/

theorem setBuf_producerView (s : State) (b : BufIndex) (p : Pixels) :
    (producerView s).setBuf b p = producerView (s.setBuf b p) := by cases b <;> rfl

theorem buf_producerView (s : State) (b : BufIndex) : (producerView s).buf b = s.buf b :=
  buf_congr rfl rfl b

theorem pixWrite_producerView (off : Nat) (c : Colour) (s : State) :
    pixWrite off c (producerView s) = mapNext producerView (pixWrite off c s) := by
  by_cases h : off < s.bufferSize
  · rw [pixWrite_inside h, pixWrite_inside (s := producerView s) h, buf_producerView,
      setBuf_producerView]
    rfl
  · have h' : s.bufferSize ≤ off := by omega
    rw [pixWrite_outside h', pixWrite_outside (s := producerView s) h']
    rfl

theorem pixWrites_producerView (cs : List Colour) (off : Nat) (s : State) :
    pixWrites off cs (producerView s) = mapNext producerView (pixWrites off cs s) := by
  induction cs generalizing off s with
  | nil => rfl
  | cons c rest ih =>
    rw [pixWrites, pixWrite_producerView]
    exact mapNext_andThen (ih (off + 1)) _

theorem emitCell_producerView (b cd : Byte) (s : State) :
    emitCell b cd (producerView s) = mapNext producerView (emitCell b cd s) := by
  have h := pixWrites_producerView (cellColours b cd s.ink s.paper) s.pixelCounter s
  exact (congrArg (andThen · _) h).trans (mapNext_andThen (fun _ => rfl) _)

theorem effect_producerView (i : Instr) (s : State) :
    effect i (producerView s) = producerView (effect i s) := by cases i <;> rfl

theorem cellOf_producerView (i : Instr) (s : State) :
    cellOf i (producerView s) = cellOf i s := by cases i <;> rfl

/-- A stream code does to the producer's view what it does to the state, its stops included. -/
theorem exec_producerView (i : Instr) (s : State) :
    exec i (producerView s) = mapNext producerView (exec i s) := by
  by_cases hg : s.textMode = true → glyphAddr (encodeByte i) s ≤ 65535
  · rw [exec_eq i hg, exec_eq (s := producerView s) i hg, cellOf_producerView,
      ← emitCell_producerView, ← effect_producerView]
    rfl
  · simp only [Classical.not_imp, Int.not_le] at hg
    rw [exec_missingGlyph i hg.1 hg.2, exec_missingGlyph (s := producerView s) i hg.1 hg.2]
    rfl

theorem renderCell_producerView (s : State) :
    renderCell { producerView s with busReads := [] } =
      mapNext producerView (renderCell { s with busReads := [] }) := by
  by_cases hr : 0 ≤ streamAddr s ∧ streamAddr s ≤ 65535
  · rw [renderCell_inRange hr.1 hr.2, renderCell_inRange (s := producerView s) hr.1 hr.2,
      ← exec_producerView]
    rfl
  · have hr' : streamAddr s < 0 ∨ 65535 < streamAddr s := by omega
    rw [renderCell_outOfRange hr', renderCell_outOfRange (s := producerView s) hr']
    rfl

/-! ### The end of a STEP -/

theorem lineResetIfAbove_producerView (s : State) :
    lineResetIfAbove (producerView s) = producerView (lineResetIfAbove s) :=
  (apply_ite producerView (s.windowLine < Config.vVisLines) (lineReset s) s).symm

theorem lineWrap_producerView (s : State) :
    producerView (lineWrap (producerView s)) = producerView (lineWrap s) := by
  have ht : lineResetIfAbove (nextLine (producerView s)) =
      producerView (lineResetIfAbove (nextLine s)) := lineResetIfAbove_producerView (nextLine s)
  simp only [lineWrap, ht]
  generalize lineResetIfAbove (nextLine s) = u
  by_cases hT : u.verticalCounter = u.totalLines
  · have hT' : (producerView u).verticalCounter = (producerView u).totalLines := hT
    rw [if_pos hT, if_pos hT']
    rfl
  · have hT' : (producerView u).verticalCounter ≠ (producerView u).totalLines := hT
    rw [if_neg hT, if_neg hT']
    rfl

theorem advance_producerView (s : State) :
    producerView (advance (producerView s)) = producerView (advance s) := by
  by_cases h : s.horizontalCounter = 63
  · rw [advance_lineEnd h, advance_lineEnd (s := producerView s) h]
    exact lineWrap_producerView { s with horizontalCounter := s.horizontalCounter + 1 }
  · rw [advance_within h, advance_within (s := producerView s) h]
    rfl

/-! ### STEP -/

/-- What a STEP does, as the producer sees it, is a function of what the producer sees. -/
theorem chipStep_producerView (s : State) :
    mapNext producerView (chipStep (producerView s)) = mapNext producerView (chipStep s) := by
  by_cases hf : s.faulted = true
  · rw [chipStep_faulted hf, chipStep_faulted (s := producerView s) hf]
    rfl
  rw [Bool.not_eq_true] at hf
  by_cases hw : inWindow s = true
  · rw [chipStep_visible hf hw, chipStep_visible (s := producerView s) hf hw,
      renderCell_producerView]
    simp only [mapNext_mapNext]
    rfl
  · rw [Bool.not_eq_true] at hw
    rw [chipStep_blank hf hw, chipStep_blank (s := producerView s) hf hw]
    exact congrArg Host.Outcome.next (advance_producerView { s with busReads := [] })

/-! ### The consumer's operations -/

theorem poll_keeps_producerView {s t : State} (h : poll s = .next t) :
    producerView t = producerView s := by
  obtain ⟨r, p, handed, hp⟩ := poll_next s
  rw [hp] at h
  cases h
  rfl

theorem dump_keeps_producerView {s t : State} (h : dump s = .next t) :
    producerView t = producerView s := by
  obtain ⟨d, hd⟩ := dump_next s
  rw [hd] at h
  cases h
  rfl

theorem readPixel_keeps_producerView {n off : Nat} {s t : State} (h : readPixel n off s = .next t) :
    producerView t = producerView s := by
  obtain ⟨c, k, rfl⟩ := readPixel_next h
  rfl

/-- Settles O41: both STEPs are, to the producer, the STEP of the one view; the consumer's operations
write only fields outside it. -/
theorem producerIsIndependentOfTheConsumer : Obligations.ProducerIsIndependentOfTheConsumer := by
  refine ⟨fun s s' h => ?_, fun op s t hop h => ?_, fun s => ?_⟩
  · rw [← chipStep_producerView s, h, chipStep_producerView s']
  · obtain rfl | rfl | ⟨n, off, rfl⟩ := hop
    · exact poll_keeps_producerView h
    · exact dump_keeps_producerView h
    · exact readPixel_keeps_producerView h
  · obtain ⟨r, p, handed, hp⟩ := poll_next s
    exact ⟨_, hp⟩

end Sys2Proof.Machine
end

section
/-! Encoding and decoding (30_encoding.md sections 1 to 4): the fields of the byte of a code, the
rows of the opcode table by a byte's fields, and that decoding and encoding undo each other. -/

namespace Sys2Proof

/-! ### The fields of an encoded byte -/

theorem fieldR_controlByte : ∀ r g v, fieldR (controlByte r g v) = r := by decide

theorem fieldV_controlByte : ∀ r g v, fieldV (controlByte r g v) = v := by decide

theorem fieldR_dataByte : ∀ r code, fieldR (dataByte r code) = r := by decide

theorem fieldCode_dataByte : ∀ r code, fieldCode (dataByte r code) = code := by decide

/-- The class field of a data code's byte is the class of its `code` field, whatever bit 7 is. -/
theorem fieldK_dataByte : ∀ r code, fieldK (dataByte r code) = codeClass code := by decide

/-- The three flags of ATTR and MODE are the bits of the operand field. -/
theorem flags_controlByte : ∀ r g b2 b1 b0,
    (controlByte r g (flagBits b2 b1 b0)).getLsbD 2 = b2 ∧
    (controlByte r g (flagBits b2 b1 b0)).getLsbD 1 = b1 ∧
    (controlByte r g (flagBits b2 b1 b0)).getLsbD 0 = b0 := by decide

/-! ### The decoder by the class of a byte -/

section
variable {b : Byte}

theorem decodeByte_of_class1 (hK : fieldK b = 1#2) :
    decodeByte b = .data1 (fieldR b) (fieldCode b) := by
  simp [decodeByte, hK]

theorem decodeByte_of_class2 (hK : fieldK b = 2#2) :
    decodeByte b = .data2 (fieldR b) (fieldCode b) := by
  simp [decodeByte, hK]

theorem decodeByte_of_class3 (hK : fieldK b = 3#2) :
    decodeByte b = .data3 (fieldR b) (fieldCode b) := by
  simp [decodeByte, hK]

end

theorem fieldK_cases (b : Byte) :
    fieldK b = 0#2 ∨ fieldK b = 1#2 ∨ fieldK b = 2#2 ∨ fieldK b = 3#2 := by
  generalize fieldK b = k
  revert k; decide

/-! ### Decoding undoes encoding -/

/-- The byte of a well-formed instruction decodes to it: its group and class fields select its row,
its other fields are its operands. -/
theorem decodeByte_encodeByte {i : Instr} (h : i.wellFormed = true) :
    decodeByte (encodeByte i) = i := by
  have hK := fieldK_controlByte
  have hG := fieldG_controlByte
  cases i with
  | ink r c =>
    exact (decodeByte_of_group_ink (hK r 0#2 c) (hG r 0#2 c)).trans
      (congrArg₂ Instr.ink (fieldR_controlByte ..) (fieldV_controlByte ..))
  | paper r c =>
    exact (decodeByte_of_group_paper (hK r 2#2 c) (hG r 2#2 c)).trans
      (congrArg₂ Instr.paper (fieldR_controlByte ..) (fieldV_controlByte ..))
  | attr r b d a =>
    obtain ⟨hb, hd, ha⟩ := flags_controlByte r 1#2 b d a
    rw [encodeByte, decodeByte_of_group_attr (hK ..) (hG ..), fieldR_controlByte, hb, hd, ha]
  | mode r hires f x =>
    obtain ⟨hhires, hfreq, hx⟩ := flags_controlByte r 3#2 hires f x
    rw [encodeByte, decodeByte_of_group_mode (hK ..) (hG ..), fieldR_controlByte, hhires, hfreq, hx]
  | data1 r code =>
    rw [encodeByte, decodeByte_of_class1 ((fieldK_dataByte r code).trans (beq_iff_eq.1 h)),
      fieldR_dataByte, fieldCode_dataByte]
  | data2 r code =>
    rw [encodeByte, decodeByte_of_class2 ((fieldK_dataByte r code).trans (beq_iff_eq.1 h)),
      fieldR_dataByte, fieldCode_dataByte]
  | data3 r code =>
    rw [encodeByte, decodeByte_of_class3 ((fieldK_dataByte r code).trans (beq_iff_eq.1 h)),
      fieldR_dataByte, fieldCode_dataByte]

theorem decode_cons (b : Byte) (rest : List Byte) :
    decode (b :: rest) = .ok (decodeByte b, rest) := rfl

/-- Settles O4: the encoding is one byte, and that byte decodes to the instruction. -/
theorem decodeOfEncodeIsTheInstruction : Obligations.DecodeOfEncodeIsTheInstruction := by
  intro i rest h
  show decode (encodeByte i :: rest) = .ok (i, rest)
  rw [decode_cons, decodeByte_encodeByte h]

/-! ### Every byte is a stream code -/

theorem codeClass_fieldCode : ∀ b : Byte, codeClass (fieldCode b) = fieldK b := by decide

/-- A byte's class is the class that its row demands of the `code` operand. -/
theorem wellFormed_decodeByte (b : Byte) : (decodeByte b).wellFormed = true := by
  have hclass := codeClass_fieldCode b
  obtain hK | hK | hK | hK := fieldK_cases b
  · obtain hG | hG | hG | hG := fieldG_cases b
    · rw [decodeByte_of_group_ink hK hG]; rfl
    · rw [decodeByte_of_group_attr hK hG]; rfl
    · rw [decodeByte_of_group_paper hK hG]; rfl
    · rw [decodeByte_of_group_mode hK hG]; rfl
  · rw [decodeByte_of_class1 hK, Instr.wellFormed, hclass, hK]; rfl
  · rw [decodeByte_of_class2 hK, Instr.wellFormed, hclass, hK]; rfl
  · rw [decodeByte_of_class3 hK, Instr.wellFormed, hclass, hK]; rfl

/-- Settles O5: the decoder's row is the byte's class, and encoding undoes decoding. -/
theorem encodeOfDecodeIsTheByte : Obligations.EncodeOfDecodeIsTheByte :=
  fun b => ⟨wellFormed_decodeByte b, congrArg (fun c => [c]) (Machine.encodeByte_decodeByte b)⟩

/-- Settles O6: each word's fields are computed. -/
theorem sampleWordsDecode : Obligations.SampleWordsDecode :=
  ⟨rfl, rfl, rfl, rfl, rfl, rfl, rfl⟩

/-! ### The rows of the opcode table -/

/-- The mask of a data row (section 8) keeps the bits of `K` in their place. -/
theorem and_0x60_eq_iff (b : Byte) (k : BitVec 2) :
    b &&& 0x60#8 = k.setWidth 8 <<< 5 ↔ fieldK b = k := by
  revert b k; decide

/-- Settles O1: a control row is met by class and group, a data row by class, and so is the
decoder's answer. -/
theorem everyByteMatchesExactlyItsTableRow : Obligations.EveryByteMatchesExactlyItsTableRow := by
  intro b
  have hink : b &&& 0x78#8 = 0x00#8 ↔ _ := and_0x78_eq_iff b 0#2
  have hattr : b &&& 0x78#8 = 0x08#8 ↔ _ := and_0x78_eq_iff b 1#2
  have hpaper : b &&& 0x78#8 = 0x10#8 ↔ _ := and_0x78_eq_iff b 2#2
  have hmode : b &&& 0x78#8 = 0x18#8 ↔ _ := and_0x78_eq_iff b 3#2
  have hdata1 : b &&& 0x60#8 = 0x20#8 ↔ _ := and_0x60_eq_iff b 1#2
  have hdata2 : b &&& 0x60#8 = 0x40#8 ↔ _ := and_0x60_eq_iff b 2#2
  have hdata3 : b &&& 0x60#8 = 0x60#8 ↔ _ := and_0x60_eq_iff b 3#2
  simp only [opcodeRows, List.filter_cons, List.filter_nil, beq_iff_eq, hink, hattr, hpaper, hmode,
    hdata1, hdata2, hdata3]
  obtain hK | hK | hK | hK := fieldK_cases b
  · obtain hG | hG | hG | hG := fieldG_cases b
    · simp [decodeByte_of_group_ink hK hG, hK, hG, Instr.mnemonic]
    · simp [decodeByte_of_group_attr hK hG, hK, hG, Instr.mnemonic]
    · simp [decodeByte_of_group_paper hK hG, hK, hG, Instr.mnemonic]
    · simp [decodeByte_of_group_mode hK hG, hK, hG, Instr.mnemonic]
  · simp [decodeByte_of_class1 hK, hK, Instr.mnemonic]
  · simp [decodeByte_of_class2 hK, hK, Instr.mnemonic]
  · simp [decodeByte_of_class3 hK, hK, Instr.mnemonic]

/-- The values of class 00: thirty-two from 0, and the same with bit 7 set. -/
theorem fieldK_eq_zero_iff_toNat_range (b : Byte) :
    fieldK b = 0#2 ↔ b.toNat ≤ 0x1F ∨ (0x80 ≤ b.toNat ∧ b.toNat ≤ 0x9F) := by
  have hb := b.isLt
  rw [← BitVec.toNat_inj, fieldK_toNat, BitVec.toNat_ofNat]
  omega

/-- The bytes of class 00 are those that decode to a control code. -/
theorem fieldK_eq_zero_iff_mnemonic (b : Byte) :
    fieldK b = 0#2 ↔ (decodeByte b).mnemonic ∈ ["INK", "ATTR", "PAPER", "MODE"] := by
  obtain hK | hK | hK | hK := fieldK_cases b
  · obtain hG | hG | hG | hG := fieldG_cases b
    · simp [decodeByte_of_group_ink hK hG, hK, Instr.mnemonic]
    · simp [decodeByte_of_group_attr hK hG, hK, Instr.mnemonic]
    · simp [decodeByte_of_group_paper hK hG, hK, Instr.mnemonic]
    · simp [decodeByte_of_group_mode hK hG, hK, Instr.mnemonic]
  · simp [decodeByte_of_class1 hK, hK, Instr.mnemonic]
  · simp [decodeByte_of_class2 hK, hK, Instr.mnemonic]
  · simp [decodeByte_of_class3 hK, hK, Instr.mnemonic]

/-- Settles O3: the mask is the class field, and the decoder's answer goes by it. -/
theorem dataCodesDecodeByClass : Obligations.DataCodesDecodeByClass := by
  intro b
  have hmask (k : BitVec 2) := (and_0x60_eq_iff b k).1
  refine ⟨fun h => decodeByte_of_class1 (hmask 1#2 h), fun h => decodeByte_of_class2 (hmask 2#2 h),
    fun h => decodeByte_of_class3 (hmask 3#2 h),
    (and_0x60_eq_zero_iff b).trans (fieldK_eq_zero_iff_toNat_range b),
    (and_0x60_eq_zero_iff b).trans (fieldK_eq_zero_iff_mnemonic b)⟩

end Sys2Proof
end

section
/-! What one operation of an agent can do, once (00_scope.md R12), and that every operation keeps
the raster's invariant, the parameters' domains and the canonical form of memory. -/

namespace Sys2Proof.Machine

/-! ### The operations -/

/-- What POLL, DUMP, the processor's write and the consumer's read can change from `s` to `t`:
`ready` can only be cleared, a reference is added only while a frame is ready, and memory changes by
the processor's write alone. -/
structure AgentChange (op : AgentOp) (s t : State) : Prop where
  frame : t = { s with
    ready := t.ready
    pollResult := t.pollResult
    handed := t.handed
    dumpResult := t.dumpResult
    readResult := t.readResult
    freeReads := t.freeReads
    mem := t.mem }
  ready : t.ready = true → s.ready = true
  handed : ∀ ref ∈ t.handed, ref ∈ s.handed ∨ (ref = s.completedRef ∧ s.ready = true)
  mem : t.mem = s.mem ∨ ∃ a v, op = .busWrite a v ∧ t.mem = s.mem.write a.toNat v

theorem poll_agentChange {s t : State} (h : poll s = .next t) : AgentChange .poll s t := by
  unfold poll at h
  split at h
  · cases h
    exact ⟨rfl, id, fun _ h => .inl h, .inl rfl⟩
  · split at h
    · rename_i hready
      cases h
      refine ⟨rfl, fun _ => hready, fun ref href => ?_, .inl rfl⟩
      simpa [hready] using href
    · cases h
      exact ⟨rfl, id, fun _ h => .inl h, .inl rfl⟩

theorem dump_agentChange {s t : State} (h : dump s = .next t) : AgentChange .dump s t := by
  obtain ⟨d, hd⟩ := dump_next s
  rw [hd] at h
  cases h
  exact ⟨rfl, id, fun _ h => .inl h, .inl rfl⟩

theorem busWrite_agentChange {a : BitVec 16} {v : Byte} {s t : State}
    (h : busWrite a v s = .next t) : AgentChange (.busWrite a v) s t := by
  cases h
  exact ⟨rfl, id, fun _ h => .inl h, .inr ⟨a, v, rfl, rfl⟩⟩

theorem readPixel_agentChange {n off : Nat} {s t : State} (h : readPixel n off s = .next t) :
    AgentChange (.readPixel n off) s t := by
  obtain ⟨c, k, rfl⟩ := readPixel_next h
  exact ⟨rfl, id, fun _ h => .inl h, .inl rfl⟩

/-- From `s` to `t` a RESET was accepted: a new block with buffers that hold a frame. -/
def Accepted (s t : State) : Prop :=
  ∃ pal width height, 53760 ≤ width * height ∧ t = newBlock pal width height s

theorem resetBlock_accepted {p : ProfileArg} {w h : Int} {s t : State}
    (hr : resetBlock p w h s = .next t) : Accepted s t := by
  obtain ⟨pal, -, hw, hh, hsize, rfl⟩ := resetBlock_next hr
  lift w to Nat using hw.le
  lift h to Nat using hh.le
  exact ⟨pal, w, h, by exact_mod_cast hsize, rfl⟩

/-- What an operation can do, once: a STEP, an accepted RESET, or what the agents around the chip
do. -/
theorem runOp_next {op : AgentOp} {s t : State} (h : runOp op s = .next t) :
    (op = .step ∧ chipStep s = .next t) ∨ ((∃ p w h, op = .reset p w h) ∧ Accepted s t) ∨
      AgentChange op s t := by
  cases op with
  | step => exact .inl ⟨rfl, h⟩
  | reset p width height => exact .inr (.inl ⟨⟨p, width, height, rfl⟩, resetBlock_accepted h⟩)
  | poll => exact .inr (.inr (poll_agentChange h))
  | dump => exact .inr (.inr (dump_agentChange h))
  | busWrite a v => exact .inr (.inr (busWrite_agentChange h))
  | readPixel n off => exact .inr (.inr (readPixel_agentChange h))

/-- Every step is one operation on the state with what is still pending after it. -/
theorem step_next {s t : State} (h : step s = .next t) :
    ∃ op rest, runOp op { s with schedule := rest } = .next t := by
  cases hs : s.schedule with
  | nil => exact ⟨.step, s.schedule, (step_idle hs).symm.trans h⟩
  | cons op rest => exact ⟨op, rest, (step_op hs).symm.trans h⟩

/-! ### A block after RESET -/

/-- The reset table's registers, for either profile and any geometry. -/
theorem resetValues_fresh (pal : Bool) (width height : Nat) :
    ResetValues (State.fresh pal width height) pal where
  horizontalCounter := rfl
  verticalCounter := rfl
  windowLine := rfl
  pixelCounter := rfl
  palFreq := rfl
  totalLines := rfl
  hiresMode := rfl
  textMode := rfl
  charset := rfl
  charsetBase := rfl
  charsetAddr := rfl
  charline := rfl
  doubleHeight := rfl
  blink := rfl
  blinkMask := rfl
  ink := rfl
  paper := rfl
  lineAddr := rfl
  frameCount := rfl
  buffers b _ := by cases b <;> rfl
  activeIndex := rfl
  ready := rfl
  faulted := rfl

/-- The environment that a new block keeps is no part of the reset table. -/
theorem resetValues_newBlock (pal : Bool) (width height : Nat) (s : State) :
    ResetValues (newBlock pal width height s) pal :=
  { resetValues_fresh pal width height with }

/-- The values of the reset table meet the raster's invariant. -/
theorem ResetValues.rasterInv {t : State} {pal : Bool} (h : ResetValues t pal) : RasterInv t where
  a_horizontal := by rw [h.horizontalCounter]; decide
  b_vertical := by
    rw [h.verticalCounter, h.totalLines]
    split <;> decide
  c_windowLine := by rw [h.windowLine, h.verticalCounter]; rfl
  d_textMode := by rw [h.textMode, h.hiresMode]; rfl
  e_charsetBase := by rw [h.charsetBase, h.hiresMode]; rfl
  f_charsetAddr := by rw [h.charsetAddr, h.charsetBase, h.charset]; rfl
  g_charline _ := by rw [h.charline, h.doubleHeight, h.windowLine]; rfl
  g_charlineKept _ := h.charline
  h_lineAddr _ := by rw [h.lineAddr, h.textMode, h.windowLine]; rfl
  h_lineAddrKept hk := by rw [h.windowLine] at hk; omega
  i_blinkMask := by rw [h.blinkMask, h.blink]; rfl
  j_pixelCounter := by rw [h.pixelCounter, h.windowLine]; rfl
  k_totalLines := by rw [h.totalLines, h.palFreq]

theorem newBlock_paramInv {s : State} (h : ParamInv s) (pal : Bool) {width height : Nat}
    (hsize : 53760 ≤ width * height) : ParamInv (newBlock pal width height s) :=
  ⟨hsize, h.width, Nat.two_pow_pos _⟩

/-! ### The raster's invariant and the parameters -/

section
variable {op : AgentOp} {s t : State}

theorem AgentChange.rasterInv (hc : AgentChange op s t) (h : RasterInv s) : RasterInv t := by
  rw [hc.frame]
  exact { h with }

theorem AgentChange.paramInv (hc : AgentChange op s t) (h : ParamInv s) : ParamInv t := by
  rw [hc.frame]
  exact { h with }

theorem runOp_rasterInv (h : RasterInv s) (ht : runOp op s = .next t) : RasterInv t := by
  obtain ⟨-, ht⟩ | ⟨-, pal, width, height, -, rfl⟩ | hc := runOp_next ht
  · exact chipStep_rasterInv h ht
  · exact (resetValues_newBlock pal width height s).rasterInv
  · exact hc.rasterInv h

theorem runOp_paramInv (h : ParamInv s) (ht : runOp op s = .next t) : ParamInv t := by
  obtain ⟨-, ht⟩ | ⟨-, pal, width, height, hsize, rfl⟩ | hc := runOp_next ht
  · exact chipStep_paramInv h ht
  · exact newBlock_paramInv h pal hsize
  · exact hc.paramInv h

end

/-- Settles O33: by the operation; what is still pending is no part of either invariant. -/
theorem stepKeepsTheRasterInvariant : Obligations.StepKeepsTheRasterInvariant := by
  intro s t hr hp h
  obtain ⟨op, rest, h⟩ := step_next h
  have hr' : RasterInv { s with schedule := rest } := { hr with }
  have hp' : ParamInv { s with schedule := rest } := { hp with }
  exact ⟨runOp_rasterInv hr' h, runOp_paramInv hp' h⟩

/-! ### What a STEP leaves of the state around the chip -/

/-- What no STEP writes: memory, the pending operations, the block's identity and geometry, and the
consumer's references. -/
structure KeepsEnvironment (s t : State) : Prop where
  mem : t.mem = s.mem
  schedule : t.schedule = s.schedule
  faulted : t.faulted = s.faulted
  handed : t.handed = s.handed
  retired : t.retired = s.retired
  blockId : t.blockId = s.blockId
  width : t.screenWidth = s.screenWidth
  height : t.screenHeight = s.screenHeight
  frameCountBits : t.frameCountBits = s.frameCountBits

theorem chipStep_environment {s t : State} (h : chipStep s = .next t) : KeepsEnvironment s t := by
  obtain ⟨-, rfl⟩ | ⟨-, -, rfl⟩ | ⟨-, -, -, -, u, hu, rfl⟩ := chipStep_next h
  · exact ⟨rfl, rfl, rfl, rfl, rfl, rfl, rfl, rfl, rfl⟩
  · obtain ⟨hmem, -, -, hsched, hfault, hhanded, hretired, hblock, hwidth, hheight, hbits, -⟩ :=
      advance_environment { s with busReads := [] }
    exact ⟨hmem, hsched, hfault, hhanded, hretired, hblock, hwidth, hheight, hbits⟩
  · obtain ⟨hmem, hsched, -, -, -, hhanded, hretired, hblock, hwidth, hheight, hbits, -, -, -,
      hfault⟩ := exec_environment hu
    exact ⟨hmem, hsched, hfault, hhanded, hretired, hblock, hwidth, hheight, hbits⟩

/-! ### Memory -/

/-- Only the processor's write changes memory. -/
theorem runOp_mem {op : AgentOp} {s t : State} (h : runOp op s = .next t) :
    t.mem = s.mem ∨ ∃ a v, op = .busWrite a v ∧ t.mem = s.mem.write a.toNat v := by
  obtain ⟨-, ht⟩ | ⟨-, pal, width, height, -, rfl⟩ | hc := runOp_next h
  · exact .inl (chipStep_environment ht).mem
  · exact .inl rfl
  · exact hc.mem

theorem busWrite_mem_wf {m : Memory} (h : m.wf = true) (a : BitVec 16) (v : Byte) :
    (m.write a.toNat v).wf = true :=
  Memory.write_wf h v (Nat.le_of_lt_succ a.isLt)

theorem runOp_mem_wf {op : AgentOp} {s t : State} (hm : s.mem.wf = true)
    (h : runOp op s = .next t) : t.mem.wf = true := by
  obtain hsame | ⟨a, v, -, hwrite⟩ := runOp_mem h
  · rw [hsame]; exact hm
  · rw [hwrite]; exact busWrite_mem_wf hm a v

/-- Settles O35: by the operation; the processor's write keeps the form, and the others the memory.
-/
theorem stepKeepsMemoryCanonical : Obligations.StepKeepsMemoryCanonical := by
  intro s t hm h
  obtain ⟨op, rest, h⟩ := step_next h
  exact runOp_mem_wf (s := { s with schedule := rest }) hm h

/-- Settles O21: a write, then what a read of the written memory gives. -/
theorem busWriteChangesOneByte : Obligations.BusWriteChangesOneByte :=
  fun a v _ hm => ⟨_, rfl, rfl, busWrite_mem_wf hm a v, Memory.read_write hm a.toNat v⟩

/-- The agents around the chip store no pixel. -/
theorem AgentChange.bufs {op : AgentOp} {s t : State} (hc : AgentChange op s t) :
    t.buf0 = s.buf0 ∧ t.buf1 = s.buf1 := by
  rw [hc.frame]
  exact ⟨rfl, rfl⟩

/-- Settles O22: what an operation other than the write does to memory, and the consumer's two
operations on the buffers. -/
theorem onlyTheProcessorWritesTheBus : Obligations.OnlyTheProcessorWritesTheBus := by
  refine ⟨fun op s t hop h => ?_, fun op s t hop h => ?_⟩
  · obtain hsame | ⟨a, v, rfl, -⟩ := runOp_mem h
    · exact hsame
    · exact absurd rfl (hop a v)
  · obtain rfl | ⟨n, off, rfl⟩ := hop
    · exact (poll_agentChange h).bufs
    · exact (readPixel_agentChange h).bufs

end Sys2Proof.Machine
end

section
/-! The frame sink (44_frame_handoff.md sections 1, 2 and 4): what one STEP can do to it, and that
every operation keeps the sink's invariant and that of the references handed out. -/

namespace Sys2Proof.Machine

/-! ### What a STEP can do to the sink -/

/-- From `s` to `t` a STEP left the sink alone: no cell was drawn and no frame ended. -/
structure SinkRests (s t : State) : Prop where
  blank : s.faulted = true ∨ inWindow s = false
  active : t.activeIndex = s.activeIndex
  toggles : t.toggles = s.toggles
  ready : t.ready = s.ready
  pixelCounter : t.pixelCounter = s.pixelCounter
  bufs : ∀ b, t.buf b = s.buf b

/-- From `s` to `t` a STEP drew its cell in the active buffer. -/
structure DrawsCell (s t : State) : Prop where
  running : s.faulted = false
  visible : inWindow s = true
  active : t.activeIndex = s.activeIndex
  toggles : t.toggles = s.toggles
  ready : t.ready = s.ready
  pixelCounter : t.pixelCounter = s.pixelCounter + 6
  stores : CellStores s t (cellDotColour s t)
  form : KeepsForm (s.pixelCounter + 6) s t

/-- From `s` to `t` a STEP ended the frame: the roles were exchanged and no pixel was stored. -/
structure ExchangesRoles (s t : State) : Prop where
  blank : inWindow s = false
  last : LastCycle s
  active : t.activeIndex = s.activeIndex.other
  toggles : t.toggles = s.toggles + 1
  ready : t.ready = true
  pixelCounter : t.pixelCounter = 0
  bufs : ∀ b, t.buf b = s.buf b

section
variable {s t : State}

/-- A cell leaves the inks as the code's action sets them. -/
theorem cellColour_nextCode (s : State) : cellColour (nextCode s) (fetched s) =
    dotColour (streamByte s) (cellDots (streamByte s) s) (effect (nextCode s) s).ink
      (effect (nextCode s) s).paper := by
  have hdots : cellOf (nextCode s) (fetched s) = cellDots (streamByte s) s :=
    cellOf_decode (streamByte s) (fetched s)
  have hink : (effect (nextCode s) (fetched s)).ink = (effect (nextCode s) s).ink := by
    cases nextCode s <;> rfl
  have hpaper : (effect (nextCode s) (fetched s)).paper = (effect (nextCode s) s).paper := by
    cases nextCode s <;> rfl
  rw [cellColour, encodeByte_nextCode, hdots, hink, hpaper, streamByte]

/-- The inks after a visible STEP are those its code's action gives. -/
theorem cellStep_colours {u : State} (hu : exec (nextCode s) (fetched s) = .next u) :
    u.ink = (effect (nextCode s) s).ink ∧ u.paper = (effect (nextCode s) s).paper := by
  rw [(exec_next hu).2.1]
  cases nextCode s <;> exact ⟨rfl, rfl⟩

theorem cellStep_drawsCell (hf : s.faulted = false) (hw : inWindow s = true) {u : State}
    (hu : exec (nextCode s) (fetched s) = .next u) : DrawsCell s { u with
      horizontalCounter := s.horizontalCounter + 1, stepResult := some false } := by
  obtain ⟨-, -, hactive, htoggles, hready, -⟩ := exec_environment hu
  obtain ⟨-, hafter, hstores, hform⟩ := exec_next hu
  obtain ⟨hink, hpaper⟩ := cellStep_colours hu
  refine ⟨hf, hw, hactive, htoggles, hready, ?_, ?_, hform⟩
  · show u.pixelCounter = s.pixelCounter + 6
    rw [hafter]
    rfl
  · rw [cellColour_nextCode, ← hink, ← hpaper] at hstores
    exact hstores

/-- What a STEP can do to the sink, once. -/
theorem chipStep_sink (h : chipStep s = .next t) :
    SinkRests s t ∨ DrawsCell s t ∨ ExchangesRoles s t := by
  obtain ⟨hf, rfl⟩ | ⟨-, hw, rfl⟩ | ⟨hf, hw, -, -, u, hu, rfl⟩ := chipStep_next h
  · exact .inl ⟨.inl hf, rfl, rfl, rfl, rfl, buf_congr rfl rfl⟩
  · obtain ⟨-, hbuf0, hbuf1, -⟩ := advance_environment { s with busReads := [] }
    have hbufs : ∀ b, (advance { s with busReads := [] }).buf b = s.buf b := buf_congr hbuf0 hbuf1
    obtain ⟨hactive, htoggles, hready, hpixel, -⟩ | ⟨hactive, htoggles, hready, hpixel, -, hlast⟩ :=
      advance_sink { s with busReads := [] }
    · exact .inl ⟨.inr hw, hactive, htoggles, hready, hpixel, hbufs⟩
    · exact .inr (.inr ⟨hw, hlast, hactive, htoggles, hready, hpixel, hbufs⟩)
  · exact .inr (.inl (cellStep_drawsCell hf hw hu))

theorem chipStep_drawsCell (hf : s.faulted = false) (hw : inWindow s = true)
    (h : chipStep s = .next t) : DrawsCell s t := by
  obtain hr | hc | he := chipStep_sink h
  · obtain hf' | hw' := hr.blank
    · simp [hf] at hf'
    · simp [hw] at hw'
  · exact hc
  · have := he.blank
    simp [hw] at this

theorem chipStep_toggles_le (h : chipStep s = .next t) : s.toggles ≤ t.toggles := by
  obtain hr | hc | he := chipStep_sink h
  · exact hr.toggles.ge
  · exact hc.toggles.ge
  · rw [he.toggles]
    exact Nat.le_succ _

theorem DrawsCell.other (h : DrawsCell s t) :
    t.buf s.activeIndex.other = s.buf s.activeIndex.other := h.form.1

/-- A cell stores no pixel below `pixelCounter`. -/
theorem DrawsCell.stored_below (h : DrawsCell s t) (b : BufIndex) {off : Nat}
    (hoff : off < s.pixelCounter) : Pixels.stored (t.buf b) off = Pixels.stored (s.buf b) off := by
  rw [h.stores, if_neg (by omega)]

theorem DrawsCell.stored_isSome (h : DrawsCell s t) {b : BufIndex} {off : Nat}
    (hsome : (Pixels.stored (s.buf b) off).isSome) : (Pixels.stored (t.buf b) off).isSome := by
  rw [h.stores]
  split
  · rfl
  · exact hsome

/-! ### The sink's invariant -/

/-- The last cell of the window ends at the frame's last pixel. -/
theorem RasterInv.pixelCounter_visible (h : RasterInv s) (hw : inWindow s = true) :
    s.pixelCounter + 6 ≤ 53760 := by
  obtain ⟨h12, h51, hw0, hw223⟩ := (inWindow_iff s).1 hw
  have hj := h.j_pixelCounter
  rw [pixelsDrawn, if_neg (by omega), if_pos hw223] at hj
  omega

/-- The frame ends below the window, with every pixel drawn. -/
theorem RasterInv.pixelCounter_lastCycle (h : RasterInv s) (hl : LastCycle s) :
    s.pixelCounter = 53760 := by
  have hT := h.totalLines_ge
  have hline := h.c_windowLine
  have hlast := hl.2
  have hj := h.j_pixelCounter
  rw [pixelsDrawn, if_neg (by omega), if_neg (by omega)] at hj
  omega

theorem activeAfter_succ (n : Nat) : activeAfter (n + 1) = (activeAfter n).other := by
  by_cases h : n % 2 = 0
  · rw [activeAfter, activeAfter, if_pos h, if_neg (by omega)]
    rfl
  · rw [activeAfter, activeAfter, if_neg h, if_pos (by omega)]
    rfl

theorem SinkInv.canonical (h : SinkInv s) (b : BufIndex) : Pixels.wfBelow 53760 (s.buf b) := by
  cases b
  · exact h.zero_canonical
  · exact h.one_canonical

theorem SinkInv.canonical_of_bufs (h : SinkInv s) (hbufs : ∀ b, t.buf b = s.buf b) (b : BufIndex) :
    Pixels.wfBelow 53760 (t.buf b) := by
  rw [hbufs]
  exact h.canonical b

/-- The sink's invariant of a sink with the same buffers, roles and counters. -/
theorem SinkInv.of_same (h : SinkInv s) (hactive : t.activeIndex = s.activeIndex)
    (htoggles : t.toggles = s.toggles) (hpixel : t.pixelCounter = s.pixelCounter)
    (hready : t.ready = true → s.ready = true) (hbufs : ∀ b, t.buf b = s.buf b) : SinkInv t where
  zero_canonical := h.canonical_of_bufs hbufs .zero
  one_canonical := h.canonical_of_bufs hbufs .one
  active := by rw [hactive, htoggles]; exact h.active
  drawn := by rw [hpixel, hactive, hbufs]; exact h.drawn
  completed := by rw [htoggles, hactive, hbufs]; exact h.completed
  redrawn := by rw [htoggles, hactive, hbufs]; exact h.redrawn
  ready_completed hr := by rw [htoggles]; exact h.ready_completed (hready hr)

theorem DrawsCell.canonical (hc : DrawsCell s t) (h : SinkInv s) (hr : RasterInv s) (b : BufIndex) :
    Pixels.wfBelow 53760 (t.buf b) := by
  by_cases hb : b = s.activeIndex
  · rw [hb]
    exact hc.form.2 53760 (hr.pixelCounter_visible hc.visible) (h.canonical _)
  · have hb' : b = s.activeIndex.other := by
      revert hb
      cases b <;> cases s.activeIndex <;> simp [BufIndex.other]
    rw [hb', hc.other]
    exact h.canonical _

/-- A cell extends the drawn part of the active buffer by its six pixels. -/
theorem DrawsCell.sinkInv (hc : DrawsCell s t) (h : SinkInv s) (hr : RasterInv s) : SinkInv t where
  zero_canonical := hc.canonical h hr .zero
  one_canonical := hc.canonical h hr .one
  active := by rw [hc.active, hc.toggles]; exact h.active
  drawn off hoff := by
    rw [hc.pixelCounter] at hoff
    rw [hc.active]
    by_cases hlt : off < s.pixelCounter
    · exact hc.stored_isSome (h.drawn off hlt)
    · rw [hc.stores, if_pos ⟨rfl, by omega, hoff⟩]
      rfl
  completed h1 := by
    rw [hc.toggles] at h1
    rw [hc.active, hc.other]
    exact h.completed h1
  redrawn h2 off hoff := by
    rw [hc.toggles] at h2
    rw [hc.active]
    exact hc.stored_isSome (h.redrawn h2 off hoff)
  ready_completed hready := by
    rw [hc.ready] at hready
    rw [hc.toggles]
    exact h.ready_completed hready

/-- At the end of a frame the buffer just drawn is complete, and the other one was before. -/
theorem ExchangesRoles.sinkInv (he : ExchangesRoles s t) (h : SinkInv s) (hr : RasterInv s) :
    SinkInv t where
  zero_canonical := h.canonical_of_bufs he.bufs .zero
  one_canonical := h.canonical_of_bufs he.bufs .one
  active := by rw [he.active, he.toggles, activeAfter_succ, h.active]
  drawn off hoff := by
    rw [he.pixelCounter] at hoff
    omega
  completed _ off hoff := by
    rw [he.active, BufIndex.other_other, he.bufs]
    exact h.drawn off (by rw [hr.pixelCounter_lastCycle he.last]; exact hoff)
  redrawn h2 := by
    rw [he.toggles] at h2
    rw [he.active, he.bufs]
    exact h.completed (by omega)
  ready_completed _ := by
    rw [he.toggles]
    omega

theorem chipStep_sinkInv (h : SinkInv s) (hr : RasterInv s) (ht : chipStep s = .next t) :
    SinkInv t := by
  obtain hrest | hc | he := chipStep_sink ht
  · exact h.of_same hrest.active hrest.toggles hrest.pixelCounter (fun hr => hrest.ready ▸ hr)
      hrest.bufs
  · exact hc.sinkInv h hr
  · exact he.sinkInv h hr

theorem AgentChange.sinkInv {op : AgentOp} (hc : AgentChange op s t) (h : SinkInv s) :
    SinkInv t := by
  have hsame : t.activeIndex = s.activeIndex ∧ t.toggles = s.toggles ∧
      t.pixelCounter = s.pixelCounter := by
    rw [hc.frame]
    exact ⟨rfl, rfl, rfl⟩
  exact h.of_same hsame.1 hsame.2.1 hsame.2.2 hc.ready (buf_congr hc.bufs.1 hc.bufs.2)

end

/-- A new block's buffers are empty and nothing has been toggled. -/
theorem fresh_sinkInv (pal : Bool) (width height : Nat) :
    SinkInv (State.fresh pal width height) where
  zero_canonical := rfl
  one_canonical := rfl
  active := rfl
  drawn _ h := absurd h (Nat.not_lt_zero _)
  completed h := absurd h (by decide : ¬ 1 ≤ 0)
  redrawn h := absurd h (by decide : ¬ 2 ≤ 0)
  ready_completed h := Bool.noConfusion h

theorem newBlock_sinkInv (pal : Bool) (width height : Nat) (s : State) :
    SinkInv (newBlock pal width height s) :=
  { fresh_sinkInv pal width height with }

theorem runOp_sinkInv {op : AgentOp} {s t : State} (h : SinkInv s) (hr : RasterInv s)
    (ht : runOp op s = .next t) : SinkInv t := by
  obtain ⟨-, ht⟩ | ⟨-, pal, width, height, -, rfl⟩ | hc := runOp_next ht
  · exact chipStep_sinkInv h hr ht
  · exact newBlock_sinkInv pal width height s
  · exact hc.sinkInv h

/-! ### The sinks that a reference can name -/

/-- The sinks of replaced blocks are read off the block's number and the record of them. -/
theorem sinkOf_congr {s t : State} {block : Nat} (hid : t.blockId = s.blockId)
    (hret : t.retired = s.retired) (hb : block ≠ s.blockId) : t.sinkOf block = s.sinkOf block := by
  rw [State.sinkOf, State.sinkOf, hid, hret, if_neg hb, if_neg hb]

/-- A new block adds its predecessor's sink to those of the blocks before, and hides none of them.
-/
theorem newBlock_sinkOf {s : State} (h : ∀ v ∈ s.retired, v.block < s.blockId) (pal : Bool)
    (width height : Nat) {block : Nat} (hb : block ≤ s.blockId) :
    (newBlock pal width height s).sinkOf block = s.sinkOf block := by
  have hne : block ≠ (newBlock pal width height s).blockId := by
    show block ≠ s.blockId + 1
    omega
  rw [State.sinkOf, if_neg hne, newBlock_sinkView, List.find?_append, State.sinkOf]
  by_cases heq : block = s.blockId
  · have hnone : s.retired.find? (fun v => v.block = block) = none := by
      refine List.find?_eq_none.2 fun v hv => ?_
      have := h v hv
      simp only [decide_eq_true_eq]
      omega
    have hcurrent : s.sinkView.block = block := heq.symm
    rw [hnone, if_pos heq, List.find?_cons_of_pos (by simpa using hcurrent), Option.none_or]
  · have hcurrent : ¬ s.sinkView.block = block := fun h => heq h.symm
    rw [if_neg heq, List.find?_cons_of_neg (by simpa using hcurrent), List.find?_nil,
      Option.or_none]

/-! ### The references handed out -/

/-- What `HandedInv.current` says of a reference of the running block. -/
def WasPolled (s : State) (ref : FrameRef) : Prop :=
  1 ≤ ref.toggle ∧ ref.toggle ≤ s.toggles ∧ ref.buffer = (activeAfter ref.toggle).other

/-- Inside its validity window a reference of the running block names a fully stored buffer: the
completed one, or from the next toggle to the next store the one completed before it. -/
theorem SinkInv.valid_fullyStored {s : State} {ref : FrameRef} (h : SinkInv s)
    (hpolled : WasPolled s ref) (hv : s.sinkView.valid ref = true) :
    FullyStored (s.buf ref.buffer) := by
  obtain ⟨h1, -, hbuf⟩ := hpolled
  rw [hbuf]
  obtain htog | ⟨htog, -⟩ := (sinkView_valid_iff s ref).1 hv
  · rw [← htog, ← h.active]
    exact h.completed (by omega)
  · rw [← activeAfter_succ, ← htog, ← h.active]
    exact h.redrawn (by omega)

/-- The invariant of the references, where the block goes on: the sinks of the blocks before are
kept, no toggle is undone, and only a reference to the completed buffer is added. -/
theorem HandedInv.of_sameBlock {s t : State} (h : HandedInv s) (hs : SinkInv t) (hp : ParamInv t)
    (hid : t.blockId = s.blockId) (hret : t.retired = s.retired) (htog : s.toggles ≤ t.toggles)
    (hadd : ∀ ref ∈ t.handed, ref ∈ s.handed ∨ (ref = t.completedRef ∧ 1 ≤ t.toggles)) :
    HandedInv t := by
  have hcur : ∀ ref ∈ t.handed, ref.block = t.blockId → WasPolled t ref := by
    intro ref href hb
    obtain hold | ⟨rfl, h1⟩ := hadd ref href
    · obtain ⟨h1, hle, hbuf⟩ := h.current ref hold (hb.trans hid)
      exact ⟨h1, hle.trans htog, hbuf⟩
    · exact ⟨h1, le_rfl, congrArg BufIndex.other hs.active⟩
  have hold : ∀ ref ∈ t.handed, ref.block ≠ t.blockId → ref ∈ s.handed := by
    intro ref href hb
    obtain hold | ⟨rfl, -⟩ := hadd ref href
    · exact hold
    · exact absurd rfl hb
  refine ⟨hcur, ?_, fun ref href => ?_, fun ref href v hv hvalid => ?_⟩
  · rw [hret, hid]
    exact h.retired_older
  · by_cases hb : ref.block = t.blockId
    · rw [hb]
      exact ⟨t.sinkView, sinkOf_current t, rfl⟩
    · rw [sinkOf_congr hid hret (hid ▸ hb)]
      exact h.known ref (hold ref href hb)
  · by_cases hb : ref.block = t.blockId
    · rw [hb, sinkOf_current] at hv
      cases hv
      rw [sinkView_buf]
      exact ⟨hs.valid_fullyStored (hcur ref href hb) hvalid, hp.geometry⟩
    · rw [sinkOf_congr hid hret (hid ▸ hb)] at hv
      exact h.complete ref (hold ref href hb) v hv hvalid

/-- Every reference is of the running block or of one before it. -/
theorem HandedInv.block_le {s : State} (h : HandedInv s) {ref : FrameRef} (href : ref ∈ s.handed) :
    ref.block ≤ s.blockId := by
  obtain ⟨v, hv, hblock⟩ := h.known ref href
  by_cases hb : ref.block = s.blockId
  · exact hb.le
  · rw [State.sinkOf, if_neg hb] at hv
    exact hblock ▸ (h.retired_older v (List.mem_of_find?_eq_some hv)).le

/-- A new block keeps the references: they are all of blocks before it. -/
theorem newBlock_handedInv {s : State} (h : HandedInv s) (pal : Bool) (width height : Nat) :
    HandedInv (newBlock pal width height s) where
  current ref href hb := by
    have hle := h.block_le href
    have hb : ref.block = s.blockId + 1 := hb
    omega
  retired_older v hv := by
    show v.block < s.blockId + 1
    obtain hold | hlast := List.mem_append.1 hv
    · exact (h.retired_older v hold).trans (Nat.lt_succ_self _)
    · rw [List.mem_singleton.1 hlast]
      exact Nat.lt_succ_self _
  known ref href := by
    rw [newBlock_sinkOf h.retired_older pal width height (h.block_le href)]
    exact h.known ref href
  complete ref href v hv := by
    rw [newBlock_sinkOf h.retired_older pal width height (h.block_le href)] at hv
    exact h.complete ref href v hv

theorem chipStep_handedInv {s t : State} (h : MachineInv s) (ht : chipStep s = .next t) :
    HandedInv t := by
  have he := chipStep_environment ht
  refine h.handed.of_sameBlock (chipStep_sinkInv h.sink h.raster ht) (chipStep_paramInv h.params ht)
    he.blockId he.retired (chipStep_toggles_le ht) fun ref href => .inl ?_
  rwa [he.handed] at href

theorem AgentChange.handedInv {op : AgentOp} {s t : State} (hc : AgentChange op s t)
    (h : MachineInv s) : HandedInv t := by
  have hsame : t.blockId = s.blockId ∧ t.retired = s.retired ∧ t.toggles = s.toggles ∧
      t.activeIndex = s.activeIndex := by
    rw [hc.frame]
    exact ⟨rfl, rfl, rfl, rfl⟩
  obtain ⟨hid, hret, htog, hactive⟩ := hsame
  have href : t.completedRef = s.completedRef := by
    rw [State.completedRef, hid, hactive, htog, State.completedRef]
  refine h.handed.of_sameBlock (hc.sinkInv h.sink) (hc.paramInv h.params) hid hret htog.ge ?_
  rw [href, htog]
  exact fun ref hmem => (hc.handed ref hmem).imp_right
    fun ⟨heq, hready⟩ => ⟨heq, h.sink.ready_completed hready⟩

theorem runOp_handedInv {op : AgentOp} {s t : State} (h : MachineInv s)
    (ht : runOp op s = .next t) : HandedInv t := by
  obtain ⟨-, ht⟩ | ⟨-, pal, width, height, -, rfl⟩ | hc := runOp_next ht
  · exact chipStep_handedInv h ht
  · exact newBlock_handedInv h.handed pal width height
  · exact hc.handedInv h

/-- What is still pending is no part of the invariants. -/
theorem MachineInv.withSchedule {s : State} (h : MachineInv s) (rest : List AgentOp) :
    MachineInv { s with schedule := rest } where
  raster := { h.raster with }
  params := { h.params with }
  sink := h.sink.of_same rfl rfl rfl id (buf_congr rfl rfl)
  handed := ⟨h.handed.current, h.handed.retired_older, h.handed.known, h.handed.complete⟩
  memory := h.memory

/-- Every operation keeps the machine's invariants. -/
theorem runOp_machineInv {op : AgentOp} {s t : State} (h : MachineInv s)
    (ht : runOp op s = .next t) : MachineInv t :=
  ⟨runOp_rasterInv h.raster ht, runOp_paramInv h.params ht, runOp_sinkInv h.sink h.raster ht,
    runOp_handedInv h ht, runOp_mem_wf h.memory ht⟩

theorem step_machineInv {s t : State} (h : MachineInv s) (ht : step s = .next t) :
    MachineInv t := by
  obtain ⟨op, rest, ht⟩ := step_next ht
  exact runOp_machineInv (h.withSchedule rest) ht

/-- Settles O34: the two sink invariants among those that every step keeps. -/
theorem stepKeepsTheSinkInvariant : Obligations.StepKeepsTheSinkInvariant := by
  intro s t h ht
  have hinv := step_machineInv h ht
  exact ⟨hinv.sink, hinv.handed⟩

end Sys2Proof.Machine
end

section
/-! One step as what it is made of: the operation that comes next, a visible cycle as the code it
fetches, the reads of a STEP and its stops (20_memory.md, 60_exceptions.md sections 1 and 3). -/

namespace Sys2Proof.Machine

/-! ### The operation that comes next -/

/-- Settles O9: by whether an operation is pending. -/
theorem stepPerformsTheOldestOperation : Obligations.StepPerformsTheOldestOperation :=
  ⟨fun _ h => step_idle h, fun _ _ _ h => step_op h⟩

/-- Settles O19: the read by whether its address exists. -/
theorem memReadGivesTheByteOrFaults : Obligations.MemReadGivesTheByteOrFaults :=
  fun _ _ _ => ⟨fun h0 h1 => memRead_inRange h0 h1, fun h => memRead_outOfRange h⟩

/-! ### A visible cycle -/

section
variable {s : State}

/-- A visible cycle whose stream address exists is the code fetched there, and the counter's
advance. -/
theorem chipStep_runsCode (hf : s.faulted = false) (hw : inWindow s = true)
    (h0 : 0 ≤ streamAddr s) (h1 : streamAddr s ≤ 65535) : chipStep s = mapNext
      (fun t => { t with horizontalCounter := t.horizontalCounter + 1, stepResult := some false })
      (exec (nextCode s) (fetched s)) := by
  rw [chipStep_visible hf hw, renderCell_inRange h0 h1]

end

/-- Settles O7: the byte decodes to the code that the cycle runs. -/
theorem stepRunsTheDecodedInstruction : Obligations.StepRunsTheDecodedInstruction := by
  intro s i hs hf h12 h51 hw0 hw223 h0 h1 hi
  have hcode : nextCode s = i := by
    rw [decode_cons] at hi
    cases hi
    rfl
  rw [step_idle hs, chipStep_runsCode hf ((inWindow_iff s).2 ⟨h12, h51, hw0, hw223⟩) h0 h1, hcode]
  rfl

/-! ### Placing a code where it is fetched -/

theorem fetches_iff (s : State) : fetches s = true ↔
    inWindow s = true ∧ 0 ≤ streamAddr s ∧ streamAddr s ≤ 65535 := by
  rw [fetches, Bool.and_eq_true, decide_eq_true_iff]
  rfl

/-- The first cell's stream address is the base of its mode. -/
theorem streamAddr_atFirstCell (s : State) :
    streamAddr (atFirstCell s) = if s.hiresMode then 0xA000 else 0xBB80 := by
  have haddr : streamAddr (atFirstCell s) = lineAddrOf (!s.hiresMode) 0 + (12 - 12) := rfl
  rw [haddr, lineAddrOf_eq]
  cases s.hiresMode <;> rfl

theorem fetches_atFirstCell (s : State) : fetches (atFirstCell s) = true := by
  refine (fetches_iff _).2 ⟨rfl, ?_⟩
  rw [streamAddr_atFirstCell]
  split <;> decide

/-- Where the placed byte is to be fetched: the cycle of `s` if it fetches, else the first cell. -/
def placedRaster (s : State) : State := if fetches s then s else atFirstCell s

theorem placeCode_eq (b : Byte) (s : State) : placeCode b s = { placedRaster s with
    schedule := []
    faulted := false
    mem := (placedRaster s).mem.write (streamAddr (placedRaster s)).toNat b } := rfl

theorem fetches_placedRaster (s : State) : fetches (placedRaster s) = true := by
  unfold placedRaster
  split
  · assumption
  · exact fetches_atFirstCell s

theorem placedRaster_mem (s : State) : (placedRaster s).mem = s.mem := by
  unfold placedRaster
  split <;> rfl

/-- The next STEP fetches the placed byte. -/
theorem nextCode_placeCode {s : State} (hm : s.mem.wf = true) (b : Byte) :
    nextCode (placeCode b s) = decodeByte b := by
  have haddr : streamAddr (placeCode b s) = streamAddr (placedRaster s) := by
    rw [placeCode_eq]
    rfl
  have hmem : (placeCode b s).mem =
      (placedRaster s).mem.write (streamAddr (placedRaster s)).toNat b := by
    rw [placeCode_eq]
  rw [nextCode, haddr, hmem, Memory.read_write (by rw [placedRaster_mem]; exact hm), if_pos rfl]

/-- A placed code is what the very next step runs. -/
theorem step_placeCode {s : State} (hm : s.mem.wf = true) (b : Byte) :
    step (placeCode b s) = mapNext
      (fun t => { t with horizontalCounter := t.horizontalCounter + 1, stepResult := some false })
      (exec (decodeByte b) (fetched (placeCode b s))) := by
  obtain ⟨hw, h0, h1⟩ := (fetches_iff _).1 (fetches_placedRaster s)
  rw [step_idle rfl, chipStep_runsCode (s := placeCode b s) rfl hw h0 h1, nextCode_placeCode hm]

/-- Settles O8: the word is a byte, which is placed, fetched and run. -/
theorem placedCodeRunsAtTheNextStep : Obligations.PlacedCodeRunsAtTheNextStep := by
  intro s w hm hw
  have hbyte : tableByte 8 w = BitVec.ofNat 8 w := by
    rw [tableByte, Nat.mod_eq_of_lt (show w < 2 ^ 8 from hw)]
  refine ⟨decodeByte (tableByte 8 w), rfl, ?_, step_placeCode hm _⟩
  rw [encode, encodeByte_decodeByte, hbyte]

/-! ### The reads of a STEP -/

section
variable {s : State}

/-- Which base a visible line has (40_raster_timing.md R89): hires rendering ends above line 200. -/
theorem streamAddr_mapped (h : RasterInv s) (hw : inWindow s = true) :
    0x9800 ≤ streamAddr s ∧ streamAddr s ≤ 0xBFDF := by
  obtain ⟨h12, h51, hw0, hw223⟩ := (inWindow_iff s).1 hw
  have ha := h.h_lineAddr (by omega)
  have hline : s.textMode = false → s.windowLine < 200 := by
    rw [h.d_textMode]
    simp
  simp only [streamAddr, Config.hVisFirst]
  cases ht : s.textMode with
  | true => rw [ha, ht, if_pos rfl]; omega
  | false =>
    have := hline ht
    rw [ha, ht, if_neg (by decide)]
    omega

/-- A glyph lies in one of the four glyph tables: from 0x9800 to 0xBBFF. -/
theorem glyphAddr_mapped (h : RasterInv s) (hw : s.windowLine < 224) (b : Byte) :
    0x9800 ≤ glyphAddr b s ∧ glyphAddr b s ≤ 0xBFDF := by
  have hglyph := glyphNumber_le b
  have hrow := h.charline_le hw
  have hset := s.charset.isLt
  have htable := h.f_charsetAddr
  have hbase : 0x9800 ≤ s.charsetBase ∧ s.charsetBase ≤ 0xB400 := by
    rw [h.e_charsetBase]
    split <;> omega
  simp only [glyphAddr, Config.glyphBytes]
  omega

theorem cellReads_mapped (h : RasterInv s) (hw : s.windowLine < 224) (b : Byte) :
    ∀ read ∈ cellReads b s, 0x9800 ≤ read.address ∧ read.address ≤ 0xBFDF := by
  cases ht : s.textMode with
  | true =>
    rw [cellReads_text ht]
    simpa using glyphAddr_mapped h hw b
  | false =>
    rw [cellReads_hires ht]
    simp

end

/-- Settles O37: by the cycle; a visible one reads the stream byte and what the byte's cell reads.
-/
theorem everyReadLiesInTheMappedRegions : Obligations.EveryReadLiesInTheMappedRegions := by
  intro s t h ht read hread
  by_cases hf : s.faulted = true
  · rw [chipStep_faulted hf] at ht
    cases ht
    simp at hread
  rw [Bool.not_eq_true] at hf
  by_cases hw : inWindow s = true
  · rw [chipStep_visible_busReads hf hw ht] at hread
    obtain rfl | hcell := List.mem_cons.1 hread
    · exact streamAddr_mapped h.raster hw
    · have hline := (inWindow_iff s).1 hw
      exact cellReads_mapped h.raster (by omega) _ read hcell
  · rw [Bool.not_eq_true] at hw
    rw [chipStep_blank_busReads hf hw ht] at hread
    simp at hread

/-! ### The stops of a STEP -/

/-- Settles O36: the raster's invariant and the parameters' domains keep a STEP from stopping. -/
theorem noStepOfARunningBlockStops : Obligations.NoStepOfARunningBlockStops :=
  fun _ h => chipStep_progress h.raster h.params

/-- Settles O49: a STEP's fault is of one of its reads; then each operation of a faulted block. -/
theorem faultedBlockDoesNothing : Obligations.FaultedBlockDoesNothing := by
  refine ⟨fun s f h => ?_, fun s hf => ⟨chipStep_faulted hf, if_pos hf, if_pos hf⟩⟩
  obtain ⟨fetch, addr, rfl, hrange⟩ := chipStep_fault h
  exact ⟨⟨fetch, addr, rfl, hrange⟩, rfl⟩

/-! ### RESET -/

/-- Settles O32: the reset table's values meet the raster's invariant; no pixel is stored and no
reference is handed out. -/
theorem resetMeetsTheInvariant : Obligations.ResetMeetsTheInvariant where
  raster := (resetValues_fresh true 240 224).rasterInv
  params := ⟨by decide, by decide, Nat.two_pow_pos 32⟩
  sink := fresh_sinkInv true 240 224
  handed := {
    current := fun _ h => absurd h List.not_mem_nil
    retired_older := fun _ h => absurd h List.not_mem_nil
    known := fun _ h => absurd h List.not_mem_nil
    complete := fun _ h => absurd h List.not_mem_nil }
  memory := rfl

/-- Settles O47: the reset table of a fresh block, with the default profile and geometry. -/
theorem resetStateHoldsTheResetTable : Obligations.ResetStateHoldsTheResetTable :=
  ⟨resetValues_fresh true 240 224, rfl, rfl, rfl⟩

theorem palFreq_of_legal {p : ProfileArg} (hp : ∀ code, p ≠ .other code) :
    p.palFreq = .ok (decide (p ≠ .hz60_264)) := by
  cases p with
  | omitted => rfl
  | pal312 => rfl
  | hz60_264 => rfl
  | other code => exact absurd rfl (hp code)

section
variable {p : ProfileArg} {pal : Bool} {w h : Int}

theorem resetBlock_illegalGeometry (hp : p.palFreq = .ok pal) (hbad : w ≤ 0 ∨ h ≤ 0 ∨ w * h < 53760)
    (s : State) : resetBlock p w h s = .fault (.configGeometry w h) := by
  simp only [resetBlock, hp]
  by_cases hdim : w ≤ 0 ∨ h ≤ 0
  · exact if_pos hdim
  · have hsize : w * h < 53760 := by omega
    exact (if_neg hdim).trans (if_pos hsize)

theorem resetBlock_legal (hp : p.palFreq = .ok pal) (hw : 0 < w) (hh : 0 < h)
    (hsize : 53760 ≤ w * h) (s : State) :
    resetBlock p w h s = .next (newBlock pal w.toNat h.toNat s) := by
  simp only [resetBlock, hp]
  have hdim : ¬ (w ≤ 0 ∨ h ≤ 0) := by omega
  exact (if_neg hdim).trans (if_neg (show ¬ w * h < 53760 by omega))

end

/-- Settles O46: by the profile, then by the geometry. -/
theorem resetValidatesThenBuildsABlock : Obligations.ResetValidatesThenBuildsABlock := by
  intro s w h
  refine ⟨fun code => rfl, fun p hp hbad => resetBlock_illegalGeometry (palFreq_of_legal hp) hbad s,
    fun p hp hw hh hsize => ⟨_, resetBlock_legal (palFreq_of_legal hp) hw hh hsize s,
      resetValues_newBlock _ _ _ s, ?_⟩⟩
  lift w to Nat using hw.le
  lift h to Nat using hh.le
  exact ⟨rfl, rfl, Int.natCast_mul w h⟩

end Sys2Proof.Machine
end

section
/-! Where a cell lands and how long its pixels stay (44_frame_handoff.md sections 1 and 4): one STEP
by what it can do to the sink, then runs of STEPs with no other operation pending. -/

namespace Sys2Proof.Machine

/-! ### One STEP -/

/-- Settles O40: by what the STEP does to the sink; the other buffer is never the one it stores to.
-/
theorem stepNeverWritesTheOtherBuffer : Obligations.StepNeverWritesTheOtherBuffer := by
  intro s t h
  obtain hr | hc | he := chipStep_sink h
  · exact ⟨hr.bufs _, .inl ⟨hr.active, hr.toggles⟩⟩
  · exact ⟨hc.other, .inl ⟨hc.active, hc.toggles⟩⟩
  · exact ⟨he.bufs _, .inr ⟨he.active, he.toggles, he.ready, he.bufs _⟩⟩

/-- What a STEP without a toggle leaves of what a consumer can be given. -/
theorem chipStep_noToggle {s t : State} (h : chipStep s = .next t) (htog : t.toggles = s.toggles) :
    t.ready = s.ready ∧ t.activeIndex = s.activeIndex ∧
      t.buf t.activeIndex.other = s.buf s.activeIndex.other := by
  obtain hr | hc | he := chipStep_sink h
  · exact ⟨hr.ready, hr.active, by rw [hr.active, hr.bufs]⟩
  · exact ⟨hc.ready, hc.active, by rw [hc.active, hc.other]⟩
  · have := he.toggles
    omega

/-- Settles O52: a toggle is the exchange of roles after the last pixel; without one, `pixelCounter`
moves with a cell only. -/
theorem noPartialFrameIsExposed : Obligations.NoPartialFrameIsExposed := by
  refine ⟨fun s t h hf ht htog => ?_, fun s t ht htog => chipStep_noToggle ht htog,
    fun s t h hf ht htog hpixel => ?_⟩
  · obtain hr | hc | he := chipStep_sink ht
    · exact absurd hr.toggles htog
    · exact absurd hc.toggles htog
    · refine ⟨h.raster.pixelCounter_lastCycle he.last, he.pixelCounter, ?_⟩
      rw [he.active, BufIndex.other_other, he.bufs]
  · obtain hr | hc | he := chipStep_sink ht
    · exact absurd hr.pixelCounter hpixel
    · exact ⟨hc.pixelCounter, hc.stores⟩
    · have := he.toggles
      omega

/-! ### The inks -/

theorem effect_ink {i : Instr} (hi : ∀ r c, i ≠ .ink r c) (s : State) :
    (effect i s).ink = s.ink := by
  cases i with
  | ink r c => exact absurd rfl (hi r c)
  | attr r b d a => exact attrAction_ink b d a s
  | paper r c => exact paperAction_ink c s
  | mode r h f x => exact modeAction_ink h f s
  | data1 r code => rfl
  | data2 r code => rfl
  | data3 r code => rfl

theorem effect_paper {i : Instr} (hi : ∀ r c, i ≠ .paper r c) (s : State) :
    (effect i s).paper = s.paper := by
  cases i with
  | ink r c => exact inkAction_paper c s
  | attr r b d a => exact attrAction_paper b d a s
  | paper r c => exact absurd rfl (hi r c)
  | mode r h f x => exact modeAction_paper h f s
  | data1 r code => rfl
  | data2 r code => rfl
  | data3 r code => rfl

theorem chipStep_colours {s t : State} (hf : s.faulted = false) (hw : inWindow s = true)
    (h : chipStep s = .next t) : t.ink = (effect (decodeByte (streamByte s)) s).ink ∧
      t.paper = (effect (decodeByte (streamByte s)) s).paper := by
  obtain ⟨hf', -⟩ | ⟨-, hw', -⟩ | ⟨-, -, -, -, u, hu, rfl⟩ := chipStep_next h
  · simp [hf] at hf'
  · simp [hw] at hw'
  · have hcolours := cellStep_colours hu
    exact hcolours

/-! ### The place of a cell -/

section
variable {s : State} {w k : Nat}

theorem inWindow_of_cell (hline : s.windowLine = (w : Int)) (hcol : s.horizontalCounter = 12 + k)
    (hw : w < 224) (hk : k < 40) : inWindow s = true :=
  (inWindow_iff s).2 (by omega)

/-- A line is 240 pixels, a cell 6 (20_memory.md section 4). -/
theorem RasterInv.pixelCounter_of_cell (h : RasterInv s) (hline : s.windowLine = (w : Int))
    (hcol : s.horizontalCounter = 12 + k) (hw : w < 224) (hk : k < 40) :
    s.pixelCounter = w * 240 + k * 6 := by
  have hj := h.j_pixelCounter
  rw [pixelsDrawn, if_neg (by omega), if_pos (by omega)] at hj
  omega

end

/-- Settles O38: the place by the raster's invariant, the pixels and colours by what a cell does. -/
theorem cellLandsAtItsRasterOffset : Obligations.CellLandsAtItsRasterOffset := by
  intro s w k h hf hline hcol hw hk
  have hvisible := inWindow_of_cell hline hcol hw hk
  obtain ⟨t, ht⟩ := chipStep_progress h.raster h.params
  obtain ⟨hink, hpaper⟩ := chipStep_colours hf hvisible ht
  refine ⟨h.raster.pixelCounter_of_cell hline hcol hw hk, t, ht,
    (chipStep_drawsCell hf hvisible ht).stores, fun r c hi => ?_, fun hi => ?_, fun r c hi => ?_,
    fun hi => ?_⟩
  · rw [hink, hi]; rfl
  · rw [hink, effect_ink hi]
  · rw [hpaper, hi]; rfl
  · rw [hpaper, effect_paper hi]

/-! ### Runs of STEPs -/

/-- What every STEP keeps, a run with no other operation pending keeps. -/
theorem run_induction {P : State → Prop} (hstep : ∀ s t, P s → chipStep s = .next t → P t)
    {n : Nat} {s t : State} (hs : s.schedule = []) (hP : P s) (h : core.run n s = .next t) :
    P t := by
  induction n generalizing s with
  | zero =>
    cases h
    exact hP
  | succ n ih =>
    obtain ⟨u, hu, h⟩ := run_succ_next h
    rw [step_idle hs] at hu
    exact ih ((chipStep_environment hu).schedule.trans hs) (hstep s u hP hu) h

/-- The run from `s` has come to `e`: if it made no toggle, what was drawn at `s` is as it was. -/
structure KeepsDrawn (s e : State) : Prop where
  toggles : s.toggles ≤ e.toggles
  active : e.toggles = s.toggles → e.activeIndex = s.activeIndex
  pixelCounter : e.toggles = s.toggles → s.pixelCounter ≤ e.pixelCounter
  stored : e.toggles = s.toggles → ∀ off < s.pixelCounter,
    Pixels.stored (e.buf s.activeIndex) off = Pixels.stored (s.buf s.activeIndex) off

theorem KeepsDrawn.after_chipStep {s e e' : State} (h : KeepsDrawn s e)
    (he' : chipStep e = .next e') : KeepsDrawn s e' := by
  obtain ⟨htoggles, hactive, hpixel, hstored⟩ := h
  obtain hr | hc | hx := chipStep_sink he'
  · simp only [← hr.toggles, ← hr.active, ← hr.pixelCounter] at htoggles hactive hpixel hstored
    exact ⟨htoggles, hactive, hpixel, by rw [hr.bufs]; exact hstored⟩
  · rw [← hc.toggles] at htoggles hactive hpixel hstored
    refine ⟨htoggles, fun ht => hc.active.trans (hactive ht), fun ht => ?_, fun ht off hoff => ?_⟩
    · rw [hc.pixelCounter]
      exact (hpixel ht).trans (Nat.le_add_right _ 6)
    · rw [hc.stored_below _ (hoff.trans_le (hpixel ht)), hstored ht off hoff]
  · have hmore := hx.toggles
    exact ⟨by omega, fun ht => by omega, fun ht => by omega, fun ht => by omega⟩

/-- Settles O39: the drawn pixels along the run, as long as it has made no toggle. -/
theorem drawnPixelsStayUntilTheToggle : Obligations.DrawnPixelsStayUntilTheToggle := by
  intro n s t hs h htog
  have hstart : KeepsDrawn s s := ⟨le_rfl, fun _ => rfl, fun _ => le_rfl, fun _ _ _ => rfl⟩
  exact (run_induction (fun _ _ he he' => he.after_chipStep he') hs hstart h).stored htog

/-! ### A cell's pixels over the frame after its own -/

/-- In `e` the pixel `off` that was drawn as `c` after `n` toggles is still to be seen: up to the
first cell after the second toggle from then (44_frame_handoff.md R131). -/
structure KeepsPixel (n off : Nat) (c : Colour) (e : State) : Prop where
  toggles : n ≤ e.toggles
  active : e.activeIndex = activeAfter e.toggles
  drawn : e.toggles = n → off < e.pixelCounter
  stored : e.toggles ≤ n + 1 ∨ (e.toggles = n + 2 ∧ e.pixelCounter = 0) →
    Pixels.stored (e.buf (activeAfter n)) off = some c

/-- A cell of the same frame lies above the pixel, one of the next frame is in the other buffer, and
one after that ends the time that the pixel is to be seen. -/
theorem KeepsPixel.drawsCell {n off : Nat} {c : Colour} {e e' : State} (h : KeepsPixel n off c e)
    (hc : DrawsCell e e') : KeepsPixel n off c e' where
  toggles := by rw [hc.toggles]; exact h.toggles
  active := by rw [hc.active, hc.toggles]; exact h.active
  drawn ht := by
    rw [hc.toggles] at ht
    have := h.drawn ht
    rw [hc.pixelCounter]
    omega
  stored hseen := by
    rw [hc.toggles, hc.pixelCounter] at hseen
    have hle : e.toggles ≤ n + 1 := by omega
    rw [← h.stored (.inl hle)]
    have hge := h.toggles
    by_cases ht : e.toggles = n
    · exact hc.stored_below _ (h.drawn ht)
    · have hnext : e.activeIndex = (activeAfter n).other := by
        rw [h.active, show e.toggles = n + 1 by omega, activeAfter_succ]
      rw [hc.stores, if_neg]
      rintro ⟨hb, -⟩
      exact BufIndex.other_ne _ (hnext.symm.trans hb.symm)

theorem KeepsPixel.after_chipStep {n off : Nat} {c : Colour} {e e' : State}
    (h : KeepsPixel n off c e) (he' : chipStep e = .next e') : KeepsPixel n off c e' := by
  obtain hr | hc | hx := chipStep_sink he'
  · obtain ⟨htoggles, hactive, hdrawn, hstored⟩ := h
    rw [← hr.toggles] at htoggles hactive hdrawn hstored
    rw [← hr.active] at hactive
    rw [← hr.pixelCounter] at hdrawn hstored
    exact ⟨htoggles, hactive, hdrawn, by rw [hr.bufs]; exact hstored⟩
  · exact h.drawsCell hc
  · have hge := h.toggles
    refine ⟨?_, ?_, ?_, ?_⟩ <;> rw [hx.toggles]
    · omega
    · rw [hx.active, activeAfter_succ, h.active]
    · omega
    · rw [hx.bufs]
      exact fun hseen => h.stored (.inl (by omega))

/-- Right after its cell, a dot is to be seen. -/
theorem DrawsCell.keepsPixel {u t : State} (hc : DrawsCell u t)
    (hu : u.activeIndex = activeAfter u.toggles) {d : Nat} (hd : d < 6) :
    KeepsPixel u.toggles (u.pixelCounter + d) (cellDotColour u t d) t where
  toggles := hc.toggles.ge
  active := by rw [hc.active, hc.toggles, hu]
  drawn _ := by rw [hc.pixelCounter]; omega
  stored _ := by
    rw [← hu, hc.stores, if_pos ⟨rfl, by omega, by omega⟩, Nat.add_sub_cancel_left]

/-! ### The cycles of a frame -/

/-- `t` is in the frame that started at `s`. -/
structure InFrame (s t : State) : Prop where
  inv : MachineInv t
  idle : t.schedule = []
  running : t.faulted = false
  active : t.activeIndex = s.activeIndex
  toggles : t.toggles = s.toggles
  frameCount : t.frameCount = s.frameCount
  frameCountBits : t.frameCountBits = s.frameCountBits

theorem FreshFrame.inFrame {s : State} (h : FreshFrame s) : InFrame s s :=
  ⟨h.inv, h.idle, h.running, rfl, rfl, rfl, rfl⟩

theorem InFrame.toRunning {s t : State} (h : InFrame s t) : Running t :=
  ⟨h.inv.raster, h.inv.params, h.running, h.idle⟩

/-- Short of the last cycle the end of a STEP counts no frame. -/
theorem advance_frameCount_of_not_last {s : State} (hl : ¬ LastCycle s) :
    (advance s).frameCount = s.frameCount := by
  by_cases hh : s.horizontalCounter = 63
  · have hT : s.verticalCounter + 1 ≠ s.totalLines := fun hv => hl ⟨hh, hv⟩
    by_cases hv : s.verticalCounter + 1 < 233
    · rw [advance_newLine hh hv hT]
      rfl
    · rw [advance_blankLine hh (by omega) hT]
      rfl
  · rw [advance_within hh]

theorem chipStep_frameCount_of_not_last {s t : State} (hl : ¬ LastCycle s)
    (h : chipStep s = .next t) : t.frameCount = s.frameCount := by
  obtain ⟨-, rfl⟩ | ⟨-, -, rfl⟩ | ⟨-, -, -, -, u, hu, rfl⟩ := chipStep_next h
  · rfl
  · exact advance_frameCount_of_not_last (s := { s with busReads := [] }) hl
  · obtain ⟨-, -, -, -, -, -, -, -, -, -, -, hcount, -⟩ := exec_environment hu
    exact hcount

/-- Short of the last cycle a STEP stays in its frame. -/
theorem InFrame.goesOn {s u : State} (h : InFrame s u) (hl : ¬ LastCycle u) :
    ∃ t, step u = .next t ∧ InFrame s t ∧ frameCycle t = frameCycle u + 1 := by
  obtain ⟨t, ht, hrun⟩ := h.toRunning.step_next
  have hchip := (step_idle h.idle).symm.trans ht
  refine ⟨t, ht, ?_, h.toRunning.step_frameCycle hl ht⟩
  have hsink : t.activeIndex = u.activeIndex ∧ t.toggles = u.toggles := by
    obtain hr | hc | he := chipStep_sink hchip
    · exact ⟨hr.active, hr.toggles⟩
    · exact ⟨hc.active, hc.toggles⟩
    · exact absurd he.last hl
  exact ⟨step_machineInv h.inv ht, hrun.idle, hrun.running, hsink.1.trans h.active,
    hsink.2.trans h.toggles, (chipStep_frameCount_of_not_last hl hchip).trans h.frameCount,
    (chipStep_environment hchip).frameCountBits.trans h.frameCountBits⟩

/-- Up to the first last cycle a run from a fresh frame start is in that frame and has completed as
many cycles as it took steps. -/
theorem FreshFrame.run_inFrame {s : State} (h : FreshFrame s) {N : Nat}
    (hN : ∀ n < N, ∀ t, core.run n s = .next t → InFrame s t → frameCycle t = n → ¬ LastCycle t) :
    ∀ n ≤ N, ∃ t, core.run n s = .next t ∧ InFrame s t ∧ frameCycle t = n := by
  intro n
  induction n with
  | zero => exact fun _ => ⟨s, rfl, h.inFrame, h.frameCycle_eq⟩
  | succ n ih =>
    intro hn
    obtain ⟨u, hu, hin, hcycle⟩ := ih (by omega)
    obtain ⟨t, ht, hin', hcycle'⟩ := hin.goesOn (hN n (by omega) u hu hin hcycle)
    exact ⟨t, run_snoc hu ht, hin', by rw [hcycle', hcycle]⟩

/-- The two counters are the number of the cycle, by the length of a line. -/
theorem RasterInv.counters_of_frameCycle {s : State} (h : RasterInv s) :
    s.horizontalCounter = frameCycle s % 64 ∧ s.verticalCounter = frameCycle s / 64 := by
  have := h.a_horizontal
  unfold frameCycle
  omega

/-- Settles O51: the first 233 lines hold no last cycle of either line count; a drawn pixel along
the run after it. -/
theorem completedFrameHoldsItsCells : Obligations.CompletedFrameHoldsItsCells := by
  refine ⟨fun s w k h hw hk => ?_, fun u w k h hs hf hw hk hline hcol => ?_⟩
  · have hshort : ∀ n < 64 * 233, ∀ t, core.run n s = .next t → InFrame s t → frameCycle t = n →
        ¬ LastCycle t := by
      intro n hn t _ hin hcycle
      have hlines := hin.inv.raster.totalLines_ge
      rw [lastCycle_iff hin.inv.raster]
      omega
    obtain ⟨u, hu, hin, hcycle⟩ := h.run_inFrame hshort (64 * (w + 9) + 12 + k) (by omega)
    obtain ⟨hcol, hrow⟩ := hin.inv.raster.counters_of_frameCycle
    have hline := hin.inv.raster.c_windowLine
    exact ⟨u, hu, hin.inv, hin.idle, hin.running, by omega, by omega, hin.active, hin.toggles,
      hin.frameCount⟩
  · obtain ⟨t, ht⟩ := chipStep_progress h.raster h.params
    have hdraws := chipStep_drawsCell hf (inWindow_of_cell hline hcol hw hk) ht
    refine ⟨t, (step_idle hs).trans ht, fun n e he hseen d hd => ?_⟩
    have hkeeps := run_induction (fun _ _ he he' => KeepsPixel.after_chipStep he he')
      ((chipStep_environment ht).schedule.trans hs) (hdraws.keepsPixel h.sink.active hd) he
    rw [← h.raster.pixelCounter_of_cell hline hcol hw hk, h.sink.active]
    exact hkeeps.stored hseen

/-- The STEP in the last cycle starts a fresh frame. -/
theorem InFrame.freshFrame {s u : State} (h : InFrame s u) (hl : LastCycle u) :
    ∃ t, step u = .next t ∧ FreshFrame t ∧
      t.frameCount = (s.frameCount + 1) % 2 ^ s.frameCountBits := by
  obtain ⟨t, ht, hrun⟩ := h.toRunning.step_next
  have hinv := step_machineInv h.inv ht
  have hwrap := ht
  rw [step_idle h.idle, chipStep_lastCycle h.inv.raster h.running hl] at hwrap
  obtain rfl := Host.Outcome.next.inj hwrap
  refine ⟨_, ht, ⟨hinv, rfl, rfl, hrun.running, hrun.idle⟩, ?_⟩
  show (u.frameCount + 1) % 2 ^ u.frameCountBits = _
  rw [h.frameCount, h.frameCountBits]

/-- Settles O30: the cycles of the frame up to its last one, and the STEP in that. -/
theorem countersHaveClosedFormInAFrame : Obligations.CountersHaveClosedFormInAFrame := by
  intro s h hT
  have hlines := h.inv.raster.totalLines_ge
  have hlast : ∀ n < 64 * s.totalLines, ∀ t, core.run n s = .next t → InFrame s t →
      frameCycle t = n → (LastCycle t ↔ n + 1 = 64 * s.totalLines) := by
    intro n hn t ht hin hcycle
    rw [lastCycle_iff hin.inv.raster, hcycle, hT n hn t ht]
  have hframe := h.run_inFrame (N := 64 * s.totalLines - 1) fun n hn t ht hin hcycle => by
    rw [hlast n (by omega) t ht hin hcycle]
    omega
  refine ⟨fun n hn => ?_, ?_⟩
  · obtain ⟨t, ht, hin, hcycle⟩ := hframe n (by omega)
    obtain ⟨hcol, hrow⟩ := hin.inv.raster.counters_of_frameCycle
    rw [hcycle] at hcol hrow
    exact ⟨t, ht, hcol, hrow, by rw [hin.inv.raster.c_windowLine, hrow], hin.frameCount⟩
  · obtain ⟨u, hu, hin, hcycle⟩ := hframe (64 * s.totalLines - 1) le_rfl
    have hl := (hlast _ (by omega) u hu hin hcycle).2 (by omega)
    obtain ⟨t, ht, hfresh, hcount⟩ := hin.freshFrame hl
    have hrun := run_snoc hu ht
    rw [Nat.sub_add_cancel (by omega)] at hrun
    exact ⟨t, hrun, hfresh, hcount⟩

end Sys2Proof.Machine
end

section
/-! The consumer's side of the sink (44_frame_handoff.md section 2): POLL, the sinks that references
name over one operation, the end of a reference's validity window, and the consumer's reads. -/

namespace Sys2Proof.Machine

/-! ### POLL -/

/-- Settles O42: POLL by its branch; with no toggle no frame is ready, and a ready one is complete.
-/
theorem pollReturnsTheCompletedBufferOnce : Obligations.PollReturnsTheCompletedBufferOnce := by
  refine ⟨fun s hf hr => ?_, fun s hf hr => poll_notReady hf hr, fun s hf => if_pos hf,
    fun s h hf h0 => poll_notReady hf ?_, fun s h hr => h.completed (h.ready_completed hr)⟩
  · have hpoll := poll_ready hf hr
    obtain ⟨u, hu, hnone⟩ := poll_again hf hpoll
    exact ⟨_, u, hpoll, rfl, BufIndex.other_ne _, hu, hnone⟩
  · rw [← Bool.not_eq_true]
    intro hr
    have := h.ready_completed hr
    omega

/-! ### The sinks over one operation -/

section
variable {op : AgentOp} {s t : State}

theorem AgentChange.sinkOf (hc : AgentChange op s t) (block : Nat) :
    t.sinkOf block = s.sinkOf block := by
  rw [hc.frame]
  rfl

/-- No operation but STEP changes a sink that a reference can name, that of the running block
included. -/
theorem runOp_sinkOf (h : HandedInv s) (hop : op ≠ .step) {block : Nat} (hb : block ≤ s.blockId)
    (ht : runOp op s = .next t) : t.sinkOf block = s.sinkOf block := by
  obtain ⟨rfl, -⟩ | ⟨-, pal, width, height, -, rfl⟩ | hc := runOp_next ht
  · exact absurd rfl hop
  · exact newBlock_sinkOf h.retired_older pal width height hb
  · exact hc.sinkOf block

/-- A STEP changes the sink of the running block only. -/
theorem chipStep_sinkOf_older {block : Nat} (hb : block ≠ s.blockId) (ht : chipStep s = .next t) :
    t.sinkOf block = s.sinkOf block :=
  have he := chipStep_environment ht
  sinkOf_congr he.blockId he.retired hb

theorem chipStep_sinkOf_current (ht : chipStep s = .next t) :
    t.sinkOf s.blockId = some t.sinkView := by
  rw [← (chipStep_environment ht).blockId]
  exact sinkOf_current t

end

/-- Settles O48: an accepted RESET is a new block beside the sinks that were; then by the operation.
-/
theorem retiredSinksAreNeverWritten : Obligations.RetiredSinksAreNeverWritten := by
  refine ⟨fun p w h s t hinv ht => ?_, fun op s u block hinv hb hu => ?_⟩
  · obtain ⟨pal, width, height, -, rfl⟩ := resetBlock_accepted ht
    refine ⟨?_, rfl, rfl⟩
    rw [newBlock_sinkOf hinv.retired_older pal width height le_rfl, sinkOf_current]
  · by_cases hop : op = .step
    · subst hop
      exact chipStep_sinkOf_older hb.ne hu
    · exact runOp_sinkOf hinv hop hb.le hu

/-! ### The validity window over a STEP -/

section
variable {s t : State} {ref : FrameRef}

theorem sinkView_valid_eq_false_iff (s : State) (ref : FrameRef) : s.sinkView.valid ref = false ↔
    s.toggles ≠ ref.toggle ∧ ¬ (s.toggles = ref.toggle + 1 ∧ s.pixelCounter = 0) := by
  rw [← Bool.not_eq_true, sinkView_valid_iff, not_or]

theorem SinkRests.valid_eq (h : SinkRests s t) (ref : FrameRef) :
    t.sinkView.valid ref = s.sinkView.valid ref := by
  rw [Bool.eq_iff_iff, sinkView_valid_iff, sinkView_valid_iff, h.toggles, h.pixelCounter]

/-- After a cell only the references polled since the last toggle are inside their windows. -/
theorem DrawsCell.valid_iff (h : DrawsCell s t) (ref : FrameRef) :
    t.sinkView.valid ref = true ↔ s.toggles = ref.toggle := by
  rw [sinkView_valid_iff, h.toggles, h.pixelCounter]
  omega

/-- Right after a toggle the references polled since the toggle before are inside their windows. -/
theorem ExchangesRoles.valid_iff (h : ExchangesRoles s t) (ref : FrameRef) :
    t.sinkView.valid ref = true ↔ s.toggles + 1 = ref.toggle ∨ s.toggles = ref.toggle := by
  rw [sinkView_valid_iff, h.toggles, h.pixelCounter]
  omega

/-- A STEP ends a window exactly when it draws a cell one toggle after the POLL. -/
theorem chipStep_ends_window (hr : RasterInv s) (hf : s.faulted = false)
    (ht : chipStep s = .next t) (hv : s.sinkView.valid ref = true) :
    t.sinkView.valid ref = false ↔ inWindow s = true ∧ s.toggles = ref.toggle + 1 := by
  obtain hrest | hc | he := chipStep_sink ht
  · have hw : inWindow s = false := hrest.blank.resolve_left (by simp [hf])
    simp [hrest.valid_eq, hv, hw]
  · rw [← Bool.not_eq_true, hc.valid_iff]
    have := (sinkView_valid_iff s ref).1 hv
    simp only [hc.visible, true_and]
    omega
  · have hlast := hr.pixelCounter_lastCycle he.last
    have hin := (sinkView_valid_iff s ref).1 hv
    rw [← Bool.not_eq_true, he.valid_iff]
    simp only [he.blank, Bool.false_eq_true, false_and, iff_false, not_not]
    omega

/-- No STEP opens a window again. -/
theorem chipStep_keeps_window_ended (hpolled : ref.toggle ≤ s.toggles) (ht : chipStep s = .next t)
    (hv : s.sinkView.valid ref = false) : t.sinkView.valid ref = false := by
  obtain hrest | hc | he := chipStep_sink ht
  · rw [hrest.valid_eq, hv]
  · have hout := (sinkView_valid_eq_false_iff s ref).1 hv
    rw [← Bool.not_eq_true, hc.valid_iff]
    exact hout.1
  · have hout := (sinkView_valid_eq_false_iff s ref).1 hv
    rw [← Bool.not_eq_true, he.valid_iff]
    omega

/-- A reference that a STEP leaves inside its window names a buffer that it did not store to. -/
theorem chipStep_keeps_validPixels (hs : SinkInv s) (hpolled : WasPolled s ref)
    (ht : chipStep s = .next t) (hv : t.sinkView.valid ref = true) :
    t.buf ref.buffer = s.buf ref.buffer := by
  obtain hrest | hc | he := chipStep_sink ht
  · exact hrest.bufs _
  · have htog := (hc.valid_iff ref).1 hv
    rw [hpolled.2.2, ← htog, ← hs.active]
    exact hc.other
  · exact he.bufs _

end

/-- Settles O50: by the operation; a STEP by what it can do to the sink. -/
theorem validityWindowEndsAtTheFirstCellAfterTheNextToggle :
    Obligations.ValidityWindowEndsAtTheFirstCellAfterTheNextToggle := by
  intro s ref h href hb
  obtain ⟨-, hpolled, -⟩ := h.handed.current ref href hb
  refine ⟨fun t hf ht hv => chipStep_ends_window h.raster hf ht hv,
    fun t ht hv => chipStep_keeps_window_ended hpolled ht hv, fun op t hop ht => ?_⟩
  refine ⟨s.sinkView, ?_, rfl⟩
  rw [runOp_sinkOf h.handed hop hb.le ht, hb, sinkOf_current]

/-! ### The consumer's reads -/

section
variable {s : State} {n off : Nat} {ref : FrameRef} {v : SinkView}

theorem readPixel_eq (hn : s.handed[n]? = some ref) (hv : s.sinkOf ref.block = some v) :
    readPixel n off s =
      if v.size ≤ off then .refused (.readBeyondBuffer off)
      else if v.valid ref then .next { s with readResult := some (v.pixel ref.buffer off) }
      else .next { s with
        readResult := some (Config.tornPixel s.freeReads), freeReads := s.freeReads + 1 } := by
  simp only [readPixel, hn, hv]

/-- A read inside the window gives the pixel that was stored. -/
theorem readPixel_stored (hn : s.handed[n]? = some ref) (hv : s.sinkOf ref.block = some v)
    (hvalid : v.valid ref = true) (hsize : off < v.size) {c : Colour}
    (hc : Pixels.stored (v.buf ref.buffer) off = some c) :
    readPixel n off s = .next { s with readResult := some c } := by
  have hpixel : v.pixel ref.buffer off = c := by rw [SinkView.pixel, hc, Option.getD_some]
  rw [readPixel_eq hn hv, if_neg (by omega), if_pos hvalid, hpixel]

end

/-- A sink that a reference names keeps its pixels over every operation that leaves the reference
inside its window. -/
theorem runOp_keeps_validPixels {op : AgentOp} {s t : State} {ref : FrameRef} {v : SinkView}
    (h : MachineInv s) (ht : runOp op s = .next t) (href : ref ∈ s.handed)
    (hv : s.sinkOf ref.block = some v) (hvalid : v.valid ref = true) :
    ∃ v', t.sinkOf ref.block = some v' ∧
      (v'.valid ref = true → v'.buf ref.buffer = v.buf ref.buffer) := by
  by_cases hop : op = .step
  · subst hop
    by_cases hb : ref.block = s.blockId
    · rw [hb, sinkOf_current] at hv
      cases hv
      refine ⟨t.sinkView, by rw [hb, chipStep_sinkOf_current ht], fun hvalid' => ?_⟩
      rw [sinkView_buf, sinkView_buf]
      exact chipStep_keeps_validPixels h.sink (h.handed.current ref href hb) ht hvalid'
    · exact ⟨v, (chipStep_sinkOf_older hb ht).trans hv, fun _ => rfl⟩
  · exact ⟨v, (runOp_sinkOf h.handed hop (h.handed.block_le href) ht).trans hv, fun _ => rfl⟩

/-- Settles O45: the POLL of a ready block, one operation over a reference inside its window, and
the reads by the window and the buffer's size. -/
theorem polledPixelsAreTheCompletedFrame : Obligations.PolledPixelsAreTheCompletedFrame := by
  refine ⟨fun s h hf hr => ?_, fun s t ref v h ht href hv hvalid => ?_,
    fun s n off ref v h hn hv => ⟨fun hvalid hoff => ?_, fun hvalid hoff => ?_, fun hoff => ?_⟩⟩
  · refine ⟨_, poll_ready hf hr, rfl, by simp, sinkOf_current _, ?_, buf_congr rfl rfl _⟩
    exact (sinkView_valid_iff _ _).2 (.inl rfl)
  · obtain ⟨op, rest, ht⟩ := step_next ht
    obtain ⟨v', hv', hkeeps⟩ := runOp_keeps_validPixels (h.withSchedule rest) ht href hv hvalid
    exact ⟨v', hv', fun hvalid' off _ => by rw [hkeeps hvalid']⟩
  · obtain ⟨hfull, hsize⟩ := h.handed.complete ref (List.mem_of_getElem? hn) v hv hvalid
    obtain ⟨c, hc⟩ := Option.isSome_iff_exists.1 (hfull off hoff)
    exact ⟨c, hc, readPixel_stored hn hv hvalid (by omega) hc⟩
  · rw [readPixel_eq hn hv, if_neg (by omega), if_neg (by simp [hvalid])]
  · rw [readPixel_eq hn hv, if_pos hoff]

end Sys2Proof.Machine
end

section
/-! The line wrap and the frame wrap (40_raster_timing.md section 3) as STEPs entered in the last
cycle of a line. -/

namespace Sys2Proof.Machine

section
variable {s : State}

/-- A STEP entered in the last cycle of a line draws nothing. -/
theorem step_lineEnd (hs : s.schedule = []) (hf : s.faulted = false)
    (hh : s.horizontalCounter = 63) : step s = .next (advance { s with busReads := [] }) := by
  have hw : inWindow s = false := by
    rw [← Bool.not_eq_true, inWindow_iff]
    omega
  rw [step_idle hs, chipStep_blank hf hw]

end

/-! ### The move to the next line -/

theorem nextLine_eq (s : State) : nextLine s = { s with
    horizontalCounter := 0
    verticalCounter := s.verticalCounter + 1
    windowLine := (s.verticalCounter : Int) - 8 } := by
  have hline : ((s.verticalCounter + 1 : Nat) : Int) - Config.vTopBlank =
      (s.verticalCounter : Int) - 8 := by
    simp only [Config.vTopBlank]
    omega
  rw [nextLine, hline]

/-- The per-line reset of the next line; line 200 is the one after counter 208. -/
theorem lineReset_nextLine (s : State) : lineReset (nextLine s) = { s with
    horizontalCounter := 0
    verticalCounter := s.verticalCounter + 1
    windowLine := (s.verticalCounter : Int) - 8
    doubleHeight := false
    charline := (((s.verticalCounter : Int) - 8) % 8).toNat
    ink := 7#3
    paper := 0#3
    blink := false
    blinkMask := 63#6
    charset := 0#1
    charsetAddr := s.charsetBase
    textMode := if s.verticalCounter = 208 then true else s.textMode
    lineAddr := lineAddrOf (if s.verticalCounter = 208 then true else s.textMode)
      ((s.verticalCounter : Int) - 8) } := by
  have h200 : ((s.verticalCounter : Int) - 8 = Config.hiresLines) = (s.verticalCounter = 208) := by
    simp only [Config.hiresLines, eq_iff_iff]
    omega
  simp only [nextLine_eq, lineReset, lineAnd7, h200]

/-- Settles O25: by the side of the new line; below 224 the per-line reset, from it on the counters.
-/
theorem lineWrapResetsLineStateBelowLine224 : Obligations.LineWrapResetsLineStateBelowLine224 := by
  intro s hs hf hh hT
  refine ⟨fun hv => ?_, fun hv => ?_⟩
  · rw [step_lineEnd hs hf hh, advance_newLine (s := { s with busReads := [] }) hh hv hT,
      lineReset_nextLine, lineAddrOf_eq]
    exact ⟨_, rfl, rfl⟩
  · rw [step_lineEnd hs hf hh, advance_blankLine (s := { s with busReads := [] }) hh hv hT,
      nextLine_eq]

/-- A MODE code from line 200 on leaves text mode set, whichever mode it selects. -/
theorem exec_mode_textMode {r h f x : Bool} {s t : State} (hw : 200 ≤ s.windowLine)
    (ht : exec (.mode r h f x) s = .next t) : t.textMode = true := by
  obtain ⟨-, hafter, -⟩ := exec_next ht
  have htext : t.textMode = textModeOf h s.windowLine := by
    rw [hafter]
    rfl
  rw [htext, textModeOf_eq, decide_eq_true hw, Bool.or_true]

/-- Settles O26: the registers after the wrap, and the text row's base on lines 200 to 223. -/
theorem lineTwoHundredForcesText : Obligations.LineTwoHundredForcesText := by
  refine ⟨fun s hs hf hh hv hT => ?_, fun r h f x s hw hready => ?_⟩
  · obtain ⟨t, ht, hwrap⟩ := (lineWrapResetsLineStateBelowLine224 s hs hf hh hT).1 hv
    have hmode : t.hiresMode = s.hiresMode ∧ t.charsetBase = s.charsetBase := by
      rw [hwrap]
      exact ⟨rfl, rfl⟩
    have htext : t.textMode = if s.verticalCounter = 208 then true else s.textMode := by
      rw [hwrap]
    have haddr : t.textMode = true →
        t.lineAddr = 0xBB80 + ((s.verticalCounter : Int) - 8) / 8 * 40 := by
      intro h
      rw [hwrap]
      exact if_pos h
    have hkept : s.textMode = true → t.textMode = true := by
      intro h
      rw [htext, h, ite_self]
    refine ⟨t, ht, hmode.1, hmode.2, fun h208 => ?_, fun h208 => ?_, fun h _ _ => ?_,
      fun h _ _ => ?_, fun h _ => ?_⟩
    · have hforced : t.textMode = true := by rw [htext, if_pos h208]
      have := haddr hforced
      exact ⟨hforced, by omega⟩
    · rw [htext, if_neg h208]
    · have := haddr (hkept h)
      omega
    · have := haddr (hkept h)
      omega
    · have := haddr (hkept h)
      omega
  · obtain ⟨t, ht, -⟩ := exec_ready _ hready
    exact ⟨t, ht, exec_mode_textMode hw ht⟩

/-! ### The frame wrap -/

/-- The frame wrap's per-line reset is that of line -9, in the mode `hiresMode` selects. -/
theorem frameWrap_nextLine (s : State) : frameWrap (nextLine s) = { s with
    horizontalCounter := 0
    verticalCounter := 0
    windowLine := -9
    pixelCounter := 0
    frameCount := (s.frameCount + 1) % 2 ^ s.frameCountBits
    textMode := !s.hiresMode
    doubleHeight := false
    charline := 7
    ink := 7#3
    paper := 0#3
    blink := false
    blinkMask := 63#6
    charset := 0#1
    charsetAddr := s.charsetBase
    lineAddr := if s.hiresMode then 0x9E98 else 0xBB30
    activeIndex := s.activeIndex.other
    ready := true
    toggles := s.toggles + 1 } := by
  have haddr : lineAddrOf (!s.hiresMode) (-9) = if s.hiresMode then 0x9E98 else 0xBB30 := by
    cases s.hiresMode <;> rfl
  rw [← haddr]
  rfl

/-- Settles O28: the line wrap from line 224 on leaves all to the frame wrap. -/
theorem frameWrapStartsTheNextFrameAndToggles :
    Obligations.FrameWrapStartsTheNextFrameAndToggles := by
  intro s hs hf hh hT hv
  rw [step_lineEnd hs hf hh,
    advance_frameEnd (s := { s with busReads := [] }) hh hT (hT.symm ▸ hv), frameWrap_nextLine]

end Sys2Proof.Machine
end

section
/-! The stream codes one by one (42_control_codes.md section 2, 43_colour_output.md section 1): each
control code's registers, its blank cell and who else writes them; reverse video; a code's stops. -/

namespace Sys2Proof.Machine

/-! ### The cell of a control code -/

/-- Without a dot a cell is its background. -/
theorem dotColour_blank (b : Byte) (ink paper : Colour) :
    dotColour b 0 ink paper = fun _ => background b ink paper := by
  funext d
  simp [dotColour, cellDot]

theorem background_controlByte (r : Bool) (g : BitVec 2) (v : BitVec 3) (ink paper : Colour) :
    background (controlByte r g v) ink paper = if r then ink else paper := by
  have hr : (controlByte r g v).getLsbD 7 = r := fieldR_controlByte r g v
  rw [background, reverseBit_eq, hr]

/-- What a control code does where its cell is ready: its action, and a cell without a dot in the
colours that the action leaves. -/
theorem exec_control_ready {i : Instr} {r : Bool} {g : BitVec 2} {v : BitVec 3} {s : State}
    (hbyte : encodeByte i = controlByte r g v) (hdots : cellOf i s = 0)
    (h : CellReady (encodeByte i) s) : ∃ t, exec i s = .next t ∧
      t = afterCell i s t.buf0 t.buf1 ∧
      CellStores s t (fun _ => if r then (effect i s).ink else (effect i s).paper) := by
  obtain ⟨t, ht, hafter, hstores, -⟩ := exec_ready i h
  rw [cellColour, hdots, dotColour_blank, hbyte, background_controlByte] at hstores
  exact ⟨t, ht, hafter, hstores⟩

/-! ### A wrap into a line below 224 -/

/-- The per-line values that a wrap into a line below 224 gives (40_raster_timing.md R87), whether
or not it ends the frame. -/
structure LineDefaults (s t : State) : Prop where
  ink : t.ink = 7#3
  paper : t.paper = 0#3
  charset : t.charset = 0#1
  charsetAddr : t.charsetAddr = s.charsetBase
  doubleHeight : t.doubleHeight = false
  blink : t.blink = false
  blinkMask : t.blinkMask = 63#6

theorem advance_lineDefaults {s : State} (hh : s.horizontalCounter = 63)
    (hv : s.verticalCounter + 1 < 233) : LineDefaults s (advance s) := by
  have hreset : lineResetIfAbove
      (nextLine { s with horizontalCounter := s.horizontalCounter + 1 }) =
        lineReset (nextLine s) := by
    refine if_pos ?_
    simp only [nextLine_windowLine, Config.vTopBlank, Config.vVisLines]
    omega
  rw [advance_lineEnd hh]
  simp only [lineWrap, hreset]
  split <;> exact ⟨rfl, rfl, rfl, rfl, rfl, rfl, rfl⟩

/-! ### INK and PAPER -/

/-- Settles O10: the code, the other codes' effects, and the end of a STEP inside and at the end of
a line. -/
theorem inkSetsInkUntilTheLineEnds : Obligations.InkSetsInkUntilTheLineEnds := by
  refine ⟨fun r c s h => exec_control_ready rfl rfl h, fun i s t hi h => ?_, fun s hh => ?_,
    fun s hh hv => (advance_lineDefaults hh hv).ink⟩
  · obtain ⟨-, hafter, -⟩ := exec_next h
    rw [hafter]
    exact effect_ink hi s
  · rw [advance_within hh]

/-- Settles O11: as for INK. -/
theorem paperSetsPaperUntilTheLineEnds : Obligations.PaperSetsPaperUntilTheLineEnds := by
  refine ⟨fun r c s h => exec_control_ready rfl rfl h, fun i s t hi h => ?_, fun s hh => ?_,
    fun s hh hv => (advance_lineDefaults hh hv).paper⟩
  · obtain ⟨-, hafter, -⟩ := exec_next h
    rw [hafter]
    exact effect_paper hi s
  · rw [advance_within hh]

/-! ### ATTR -/

/-- ATTR's action in plain arithmetic. -/
theorem attrAction_eq (b d a : Bool) (s : State) : attrAction b d a s = { s with
    charset := if a then 1#1 else 0#1
    charsetAddr := s.charsetBase + (if a then 1024 else 0)
    doubleHeight := d
    charline := if d then (s.windowLine % 16 / 2).toNat else (s.windowLine % 8).toNat
    blink := b
    blinkMask := if b && s.frameCount.testBit 4 then 0#6 else 63#6 } := by
  have hset : BitVec.ofBool a = if a then 1#1 else 0#1 := by cases a <;> rfl
  have haddr : charsetAddrOf s.charsetBase (BitVec.ofBool a) =
      s.charsetBase + (if a then 1024 else 0) := by cases a <;> rfl
  have hrow : lineAnd15Half s.windowLine = (s.windowLine % 16 / 2).toNat := by
    rw [lineAnd15Half]
    omega
  rw [attrAction, haddr, hset, hrow, blinkMaskOf_eq, lineAnd7]

/-- The registers that ATTR writes, as any other code leaves them. -/
theorem effect_attrRegisters {i : Instr} (hi : ∀ r b d a, i ≠ .attr r b d a) (s : State) :
    (effect i s).charset = s.charset ∧ (effect i s).doubleHeight = s.doubleHeight ∧
    (effect i s).charline = s.charline ∧ (effect i s).blink = s.blink ∧
    (effect i s).blinkMask = s.blinkMask ∧
    ((∀ r h f x, i ≠ .mode r h f x) → (effect i s).charsetAddr = s.charsetAddr) := by
  cases i with
  | attr r b d a => exact absurd rfl (hi r b d a)
  | mode r h f x => exact ⟨rfl, rfl, rfl, rfl, rfl, fun hm => absurd rfl (hm r h f x)⟩
  | ink r c => exact ⟨rfl, rfl, rfl, rfl, rfl, fun _ => rfl⟩
  | paper r c => exact ⟨rfl, rfl, rfl, rfl, rfl, fun _ => rfl⟩
  | data1 r code => exact ⟨rfl, rfl, rfl, rfl, rfl, fun _ => rfl⟩
  | data2 r code => exact ⟨rfl, rfl, rfl, rfl, rfl, fun _ => rfl⟩
  | data3 r code => exact ⟨rfl, rfl, rfl, rfl, rfl, fun _ => rfl⟩

/-- Settles O12: the action in plain arithmetic, the other codes' effects, and the end of a STEP. -/
theorem attrSetsItsSixRegistersUntilTheLineEnds :
    Obligations.AttrSetsItsSixRegistersUntilTheLineEnds := by
  refine ⟨fun r b d a s h => ?_, fun i s t hi h => ?_, fun s hh => ?_, fun s hh hv => ?_⟩
  · obtain ⟨t, ht, hafter, hstores⟩ := exec_control_ready rfl rfl h
    refine ⟨t, ht, hafter.trans ?_, hstores⟩
    rw [afterCell, effect, attrAction_eq, drawnFrom]
  · obtain ⟨-, hafter, -⟩ := exec_next h
    rw [hafter]
    exact effect_attrRegisters hi s
  · rw [advance_within hh]
    exact ⟨rfl, rfl, rfl, rfl, rfl, rfl⟩
  · have hdef := advance_lineDefaults hh hv
    exact ⟨hdef.charset, hdef.charsetAddr, hdef.doubleHeight, hdef.blink, hdef.blinkMask⟩

/-! ### MODE -/

/-- MODE's action in plain arithmetic. -/
theorem modeAction_eq (h f : Bool) (s : State) : modeAction h f s = { s with
    palFreq := f
    totalLines := if f then 312 else 264
    hiresMode := h
    charsetBase := if h then 0x9800 else 0xB400
    charsetAddr := (if h then 0x9800 else 0xB400) + s.charset.toNat * 1024
    textMode := !h || decide (200 ≤ s.windowLine)
    lineAddr := if !h || decide (200 ≤ s.windowLine) then 0xBB80 + s.windowLine / 8 * 40
      else 0xA000 + s.windowLine * 40 } := by
  rw [modeAction, totalLinesOf_eq, charsetAddrOf_eq, charsetBaseOf_eq, lineAddrOf_eq, textModeOf_eq]

/-- The registers that MODE writes and no other code does. -/
theorem effect_modeRegisters {i : Instr} (hi : ∀ r h f x, i ≠ .mode r h f x) (s : State) :
    (effect i s).palFreq = s.palFreq ∧ (effect i s).totalLines = s.totalLines ∧
    (effect i s).hiresMode = s.hiresMode ∧ (effect i s).charsetBase = s.charsetBase ∧
    (effect i s).textMode = s.textMode ∧ (effect i s).lineAddr = s.lineAddr := by
  cases i with
  | mode r h f x => exact absurd rfl (hi r h f x)
  | ink r c => exact ⟨rfl, rfl, rfl, rfl, rfl, rfl⟩
  | attr r b d a => exact ⟨rfl, rfl, rfl, rfl, rfl, rfl⟩
  | paper r c => exact ⟨rfl, rfl, rfl, rfl, rfl, rfl⟩
  | data1 r code => exact ⟨rfl, rfl, rfl, rfl, rfl, rfl⟩
  | data2 r code => exact ⟨rfl, rfl, rfl, rfl, rfl, rfl⟩
  | data3 r code => exact ⟨rfl, rfl, rfl, rfl, rfl, rfl⟩

/-- No end of a STEP changes the mode. -/
theorem advance_mode (s : State) : (advance s).palFreq = s.palFreq ∧
    (advance s).totalLines = s.totalLines ∧ (advance s).hiresMode = s.hiresMode ∧
    (advance s).charsetBase = s.charsetBase := by
  by_cases hh : s.horizontalCounter = 63
  · rw [advance_lineEnd hh]
    simp only [lineWrap, lineResetIfAbove]
    split <;> split <;> exact ⟨rfl, rfl, rfl, rfl⟩
  · rw [advance_within hh]
    exact ⟨rfl, rfl, rfl, rfl⟩

/-- Settles O13: the action in plain arithmetic, the other codes' effects, the end of a STEP and the
other operations. -/
theorem modeSetsItsSevenRegisters : Obligations.ModeSetsItsSevenRegisters := by
  refine ⟨fun r h f x s hready => ?_, fun i s t hi h => ?_, advance_mode,
    fun op s t hstep hreset h => ?_⟩
  · obtain ⟨t, ht, hafter, hstores⟩ := exec_control_ready rfl rfl hready
    refine ⟨t, ht, hafter.trans ?_, hstores⟩
    rw [afterCell, effect, modeAction_eq, drawnFrom]
  · obtain ⟨-, hafter, -⟩ := exec_next h
    rw [hafter]
    exact effect_modeRegisters hi s
  · obtain ⟨hop, -⟩ | ⟨⟨p, w, height, hop⟩, -⟩ | hc := runOp_next h
    · exact absurd hop hstep
    · exact absurd hop (hreset p w height)
    · rw [hc.frame]
      exact ⟨rfl, rfl⟩

/-- Settles O31: the MODE code's cell, and the stream address with the base that its action wrote.
-/
theorem modeInMidLineKeepsTheColumn : Obligations.ModeInMidLineKeepsTheColumn := by
  intro r h f x s hinv hs hf hw hbyte
  have hcode : nextCode s = .mode r h f x := by
    rw [nextCode, hbyte, decodeByte_encodeByte rfl]
  have hready := cellReady_inWindow hinv.raster hinv.params hw (encodeByte (.mode r h f x))
  obtain ⟨h0, h1⟩ := streamAddr_inRange hinv.raster hw
  obtain ⟨u, hu, hafter, -⟩ := exec_ready (.mode r h f x) hready
  have hstep := (step_idle hs).trans (chipStep_runsCode hf hw h0 h1)
  rw [hcode, hu, mapNext_next] at hstep
  refine ⟨_, hstep, ?_⟩
  rw [← textModeOf_eq, ← lineAddrOf_eq, hafter]
  exact ⟨rfl, rfl, rfl, rfl, rfl, rfl⟩

/-! ### Reverse video -/

/-- Bit 7 is no part of a data code's glyph number. -/
theorem glyphNumber_dataByte : ∀ r code, glyphNumber (dataByte r code) = code.toNat := by decide

theorem getLsbD_dataByte (r : Bool) (code : BitVec 7) {k : Nat} (hk : k < 7) :
    (dataByte r code).getLsbD k = code.getLsbD k := by
  show (BitVec.ofBool r ++ code : BitVec (1 + 7)).getLsbD k = _
  rw [BitVec.getLsbD_append, if_pos hk]

section
variable (code : BitVec 7) (s : State)

theorem glyphAddr_dataByte (r r' : Bool) :
    glyphAddr (dataByte r code) s = glyphAddr (dataByte r' code) s := by
  rw [glyphAddr, glyphAddr, glyphNumber_dataByte, glyphNumber_dataByte]

/-- The dots of a data code do not depend on bit 7, in either rendering. -/
theorem cellSource_dataByte (r r' : Bool) (d : Nat) :
    (cellSource (dataByte r code) s).getLsbD (5 - d) =
      (cellSource (dataByte r' code) s).getLsbD (5 - d) := by
  cases ht : s.textMode with
  | true => simp only [cellSource, ht, if_true, glyphAddr_dataByte code s r r']
  | false =>
    have hk : 5 - d < 7 := by omega
    simp [cellSource, ht, getLsbD_dataByte r code hk, getLsbD_dataByte r' code hk]

/-- `s` with ink and paper exchanged. -/
def exchangeInks : State := { s with ink := s.paper, paper := s.ink }

/-- A reversed data cell has, dot for dot, the colours of the plain cell with ink and paper
exchanged. -/
theorem maskedDotColour_reversed :
    maskedDotColour (dataByte true code) s =
      maskedDotColour (dataByte false code) (exchangeInks s) := by
  funext d
  have hsource : (cellSource (dataByte true code) s).getLsbD (5 - d) =
      (cellSource (dataByte false code) (exchangeInks s)).getLsbD (5 - d) :=
    cellSource_dataByte code s true false d
  have hrev : ∀ r, reverseBit (dataByte r code) = r := fun r =>
    (reverseBit_eq _).trans (fieldR_dataByte r code)
  simp only [maskedDotColour, hsource, foreground, background, hrev]
  rfl

end

section
variable {i i' : Instr} {code : BitVec 7} {s : State}

theorem encodeByte_data {r : Bool}
    (hi : i = .data1 r code ∨ i = .data2 r code ∨ i = .data3 r code) :
    encodeByte i = dataByte r code := by
  obtain rfl | rfl | rfl := hi <;> rfl

theorem cellReady_plain (h : CellReady (dataByte true code) s) :
    CellReady (dataByte false code) (exchangeInks s) :=
  ⟨fun ht => (glyphAddr_dataByte code s false true).trans_le (h.1 ht), h.2⟩

/-- A reversed data code and the plain one on the state with ink and paper exchanged: the same
pixels, and the reversed one leaves the registers. -/
theorem exec_data_reversed
    (hi : i = .data1 false code ∨ i = .data2 false code ∨ i = .data3 false code)
    (hi' : i' = .data1 true code ∨ i' = .data2 true code ∨ i' = .data3 true code)
    (h : CellReady (encodeByte i') s) : ∃ t t',
      exec i' s = .next t' ∧ exec i (exchangeInks s) = .next t ∧
      (∀ b off, Pixels.stored (t'.buf b) off = Pixels.stored (t.buf b) off) ∧
      t'.ink = s.ink ∧ t'.paper = s.paper := by
  have hplain : CellReady (encodeByte i) (exchangeInks s) := by
    rw [encodeByte_data hi]
    rw [encodeByte_data hi'] at h
    exact cellReady_plain h
  obtain ⟨t', ht', hframe', hstores'⟩ := exec_data_ready hi' h
  obtain ⟨t, ht, -, hstores⟩ := exec_data_ready hi hplain
  rw [encodeByte_data hi', maskedDotColour_reversed] at hstores'
  rw [encodeByte_data hi] at hstores
  have hregs : t'.ink = s.ink ∧ t'.paper = s.paper := by
    rw [hframe']
    exact ⟨rfl, rfl⟩
  have hpixels : ∀ b off, Pixels.stored (t'.buf b) off = Pixels.stored (t.buf b) off :=
    fun b off => (hstores' b off).trans (hstores b off).symm
  exact ⟨t, t', ht', ht, hpixels, hregs.1, hregs.2⟩

end

/-- Settles O16: the two colours by bit 7, and the three data rows as one. -/
theorem reverseVideoExchangesInkAndPaper : Obligations.ReverseVideoExchangesInkAndPaper := by
  refine ⟨fun b ink paper => ?_, fun i i' code s hi h => ?_⟩
  · rw [foreground, background, reverseBit_eq]
    exact ⟨fun hr => ⟨if_pos hr, if_pos hr⟩,
      fun hr => ⟨if_neg (ne_true_of_eq_false hr), if_neg (ne_true_of_eq_false hr)⟩⟩
  · exact exec_data_reversed (hi.imp And.left (Or.imp And.left And.left))
      (hi.imp And.right (Or.imp And.right And.right)) h

/-! ### What a code leaves alone, and where it stops -/

/-- Settles O17: the glyph read's stop, and with it made, the stores' stop. -/
theorem cellStopsOnMissingAddressOrPixel : Obligations.CellStopsOnMissingAddressOrPixel :=
  fun i _ => ⟨fun ht h => exec_missingGlyph i ht h, fun hg hp => exec_noRoom i hg hp⟩

/-- No code's own registers are the raster's, the sink's or the agents'. -/
theorem effect_sameBeyondStream (i : Instr) (s : State) : SameBeyondStream s (effect i s) := by
  cases i <;> exact ⟨rfl, rfl, rfl, rfl, rfl, rfl, rfl, rfl, rfl, rfl, rfl, rfl, rfl, rfl, rfl, rfl,
    rfl, rfl, rfl, rfl, rfl⟩

/-- Settles O18: the code's effect, and the cell around it. -/
theorem streamCodesTouchOnlyTheirRegisters : Obligations.StreamCodesTouchOnlyTheirRegisters := by
  intro i s t h
  obtain ⟨-, hafter, -, hform⟩ := exec_next h
  refine ⟨?_, ?_, hform.1⟩
  · rw [hafter]
    exact effect_sameBeyondStream i s
  · rw [hafter]
    rfl

end Sys2Proof.Machine
end
